-- ==== Sys2Proof/Word.lean ====
section
/-! DEFINITION. The plain data types of the packet codec: bytes, window addresses, 32-bit words, 16-byte blocks and the telemetry sample. -/

namespace Sys2Proof

/-- A byte, an 8-bit value (00_scope.md R10). -/
abbrev Byte := BitVec 8

/-- A register-window address: 10 bits (20_memory.md R60). -/
abbrev Addr := BitVec 10

/-- The value of a 32-bit register (10_state.md R38, R39). -/
abbrev Word32 := BitVec 32

/-- A 16-byte block of the cipher (00_scope.md R6, `BLOCK`). -/
abbrev Block := Vector Byte 16

/-- A 16-byte key (00_scope.md R6, `KEY_LEN`). -/
abbrev Key := Vector Byte 16

/-- One telemetry sample: an identifier and five numeric fields (00_scope.md R14). The identifier is read as unsigned (10_state.md R38), a field as two's complement (10_state.md R39). -/
structure Sample where
  id : Word32
  f0 : Word32
  f1 : Word32
  f2 : Word32
  f3 : Word32
  f4 : Word32
  deriving DecidableEq, Repr

end Sys2Proof
end

