-- ==== Sys2Proof/Syntax.lean ====
section
/-! DEFINITION. The instructions: one constructor for each mnemonic of spec/opcode_table.json, the two encoding formats, and the names under which a word is rejected. -/

namespace Sys2Proof

/-- The two formats of 30_encoding.md R90: a command byte, and a host transaction word. -/
inductive Format where
  | c8
  | tw
  deriving DecidableEq, Repr

/-- The commands of the opcode map (30_encoding.md R92) and the two host transactions (20_memory.md R63, R64). -/
inductive Instr where
  | nop
  | crc
  | deriveKey
  | blockEnc
  | blockDec
  | encrypt
  | decrypt
  | serialize
  | encode
  | parse
  | decode
  | illegal (op : Byte)
  | busWr (a : Addr) (v : Byte)
  | busRd (a : Addr)
  deriving DecidableEq, Repr

/-- The format an instruction is written in (30_encoding.md R90). -/
def Instr.format : Instr → Format
  | .nop | .crc | .deriveKey | .blockEnc | .blockDec | .encrypt | .decrypt | .serialize | .encode | .parse | .decode | .illegal _ => .c8
  | .busWr _ _ | .busRd _ => .tw

/-- Why a word stands for no instruction (30_encoding.md R90, R93; 93_implementation_defined.md, treatment `refuse`). -/
inductive DecodeError where
  /-- a word wider than its format -/
  | wordTooWide
  /-- a read word (`W = 0`) with `V != 0` -/
  | readCarriesData
  deriving DecidableEq, Repr

end Sys2Proof
end

