-- ==== Sys2Proof/WellFormed.lean ====
section
/-! DEFINITION. The checks on an instruction that its type does not make: an illegal opcode is `0x0B` to `0xFF` (30_encoding.md R92, R93). -/

namespace Sys2Proof

/-- The instruction is one the encoding has (30_encoding.md R92). Every other operand is bounded by its type. -/
def Instr.wellFormed : Instr → Bool
  | .illegal op => decide (0x0B ≤ op.toNat)
  | .nop | .crc | .deriveKey | .blockEnc | .blockDec | .encrypt | .decrypt | .serialize | .encode | .parse | .decode => true
  | .busWr _ _ | .busRd _ => true

end Sys2Proof
end

