-- ==== Sys2Proof/Decode.lean ====
section
/-! DEFINITION. Decoding a command byte or a transaction word, and the encoder written from the same tables (30_encoding.md R90, R92, R93). -/

namespace Sys2Proof

/-- The opcode map of 30_encoding.md R92: every byte is decoded with mask `0xFF`, and none is rejected. -/
def decodeC8 (op : Byte) : Instr :=
  match op.toNat with
  | 0x00 => .nop
  | 0x01 => .crc
  | 0x02 => .deriveKey
  | 0x03 => .blockEnc
  | 0x04 => .blockDec
  | 0x05 => .encrypt
  | 0x06 => .decrypt
  | 0x07 => .serialize
  | 0x08 => .encode
  | 0x09 => .parse
  | 0x0A => .decode
  | _ => .illegal op

/-- Bits 17:8 of a transaction word, the address `A` (30_encoding.md R90). -/
def twAddr (w : Nat) : Addr := BitVec.ofNat 10 (w / 2 ^ 8)

/-- Bits 7:0 of a transaction word, the byte `V` (30_encoding.md R90). -/
def twByte (w : Nat) : Byte := BitVec.ofNat 8 w

/-- A 19-bit transaction word, `W` at bit 18 (30_encoding.md R90). A read word with `V != 0` is rejected (R93). -/
def decodeTw (w : Nat) : Except DecodeError Instr :=
  if w.testBit 18 then .ok (.busWr (twAddr w) (twByte w))
  else if twByte w = 0 then .ok (.busRd (twAddr w))
  else .error .readCarriesData

/-- Decoding a number written in one of the two formats; total, rejecting by name. -/
def decode (f : Format) (w : Nat) : Except DecodeError Instr :=
  match f with
  | .c8 => if w < 2 ^ 8 then .ok (decodeC8 (BitVec.ofNat 8 w)) else .error .wordTooWide
  | .tw => if w < 2 ^ 19 then decodeTw w else .error .wordTooWide

/-- The opcode byte of a command (30_encoding.md R92); a host transaction has none. -/
def Instr.opcode : Instr → Option Byte
  | .nop => some 0x00
  | .crc => some 0x01
  | .deriveKey => some 0x02
  | .blockEnc => some 0x03
  | .blockDec => some 0x04
  | .encrypt => some 0x05
  | .decrypt => some 0x06
  | .serialize => some 0x07
  | .encode => some 0x08
  | .parse => some 0x09
  | .decode => some 0x0A
  | .illegal op => some op
  | .busWr _ _ => none
  | .busRd _ => none

/-- The word of an instruction, in its own format: the opcode byte, or the transaction word `W:A:V` with `W` = 1 and `V` the byte of a write, `W` = 0 and `V` = 0 of a read (30_encoding.md R90, R92, R99). -/
def encode : Instr → Nat
  | .nop => 0x00
  | .crc => 0x01
  | .deriveKey => 0x02
  | .blockEnc => 0x03
  | .blockDec => 0x04
  | .encrypt => 0x05
  | .decrypt => 0x06
  | .serialize => 0x07
  | .encode => 0x08
  | .parse => 0x09
  | .decode => 0x0A
  | .illegal op => op.toNat
  | .busWr a v => 0x40000 + a.toNat * 2 ^ 8 + v.toNat
  | .busRd a => a.toNat * 2 ^ 8

/-- The format of a table row to which the table gives `nbits` bits, in whole bytes: 8 bits is C8, more is TW (log 11). -/
def formatOfWidth (nbits : Nat) : Format := if nbits ≤ 8 then .c8 else .tw

/-- The instruction the decoder reads from an opcode-table word of `nbits` bits. -/
def decodeTableWord (nbits w : Nat) : Option Instr := (decode (formatOfWidth nbits) w).toOption

end Sys2Proof
end

