-- ==== Sys2Proof/Config.lean ====
section
/-! DEFINITION. What is fixed for one codec instance (CIPHER and KEY_FILL) and the free values the spec leaves open. -/

namespace Sys2Proof.Config

/-- FREE VALUE. The byte a free draw gives (10_state.md R45, 20_memory.md R66): draw number, then address. Nothing in Lean can evaluate it. DESIGN CHOICE on its form: log 3. -/
opaque freeByte : Nat → Nat → Byte

/-- FREE VALUE. The parameter CIPHER (00_scope.md R8, 42_cipher.md R160): for each key some permutation of the 16-byte blocks, `E k` forwards and `D k` backwards. Which one, nothing in Lean says. Log 6. -/
opaque openCipher : Key → Equiv.Perm Block

/-- FREE VALUE. The parameter KEY_FILL (00_scope.md R8, 92_eei_decisions.md D13): some byte. -/
opaque keyFill : Byte

/-- Which `CIPHER` an instance has: any one (the spec's OPEN parameter, 00_scope.md R8), or AES-128 (43_cipher_aes128_reference.md R200). -/
inductive CipherChoice where
  | anyCipher
  | aes128
  deriving DecidableEq, Repr

/-- The parameters of one instance (00_scope.md R8). They are arguments of the model, fixed for an instance: log 5. -/
structure Params where
  cipher : CipherChoice
  keyFill : Byte
  deriving DecidableEq, Repr

/-- The instance the spec describes: every parameter open. -/
def Params.openInstance : Params := { cipher := .anyCipher, keyFill := Config.keyFill }

/-- The reference instantiation RI: AES-128 and `KEY_FILL = 0x20` (43_cipher_aes128_reference.md R200). -/
def Params.reference : Params := { cipher := .aes128, keyFill := 0x20 }

end Sys2Proof.Config
end

