-- ==== Sys2Proof/Machine/State.lean ====
section
/-! DEFINITION. The state of the codec (10_state.md R23), the reasons a step can stop, and the state after reset (70_reset_and_hazards.md R330). -/

namespace Sys2Proof.Machine

/-- The result codes of 60_exceptions.md R300, by name. -/
inductive ResultCode where
  | ok
  | shortFrame
  | crcMismatch
  | decryptFailure
  | formatError
  | valueError
  | noKey
  | keyLocked
  | lengthError
  | illegalCommand
  deriving DecidableEq, Repr

/-- What the address map of 20_memory.md R61 calls an address. -/
inductive Region where
  | cmd | status | result | crc | rxcrc | inLen | outLen | passLen
  | sample | key | pass | inBuf | outBuf
  | reserved
  deriving DecidableEq, Repr

/-- The DEFINED bytes of SAMPLE, KEY, PASS, IN and OUT, as (window address, byte) cells. An address that is not listed holds an *undefined* byte, which is the spec's own mark (10_state.md R23, R45). -/
abbrev Memory := List Host.Cell

/-- One move of an agent (10_state.md R20, 20_memory.md R72): a host transaction, given by its TW word; the engine's turn; a reset by the platform (70_reset_and_hazards.md R330). -/
inductive Event where
  | host (word : Nat)
  | engine
  | reset
  deriving DecidableEq, Repr

/-- Why a step stops with a fault. There is NO constructor: "The codec has no fault state, no stuck state" (60_exceptions.md R301). -/
inductive Fault where
  deriving DecidableEq, Repr

/-- Why a step is refused. -/
inductive Refusal where
  /-- An instruction without a meaning; no arm of `exec` raises it. Safe. -/
  | notModelled (mnemonic : String)
  /-- Raised by a host move whose word is no transaction word (30_encoding.md R90, R93; 93_implementation_defined.md: `refuse`). Safe: no transaction exists to have an effect. -/
  | notATransaction (why : DecodeError)
  deriving DecidableEq, Repr

/-- The whole state. The fields down to `mem` are the architectural state of 10_state.md R23; STATUS is held as its five fields, since its bits 7:5 always read 0 (R31). The last four are the model's own (logs 1, 3, 5, 8). -/
structure State where
  /-- CMD, the latched opcode (10_state.md R24) -/
  cmd : Byte
  /-- STATUS.BUSY (R26) -/
  busy : Bool
  /-- STATUS.DONE (R27) -/
  done : Bool
  /-- STATUS.ERR_BUSY (R28) -/
  errBusy : Bool
  /-- STATUS.KEY_VALID (R29) -/
  keyValid : Bool
  /-- STATUS.INTEGRITY (R30) -/
  integrity : Bool
  /-- RESULT (R32) -/
  result : Byte
  /-- CRC (R33) -/
  crc : Byte
  /-- RXCRC (R34) -/
  rxcrc : Byte
  /-- IN_LEN (R35) -/
  inLen : Byte
  /-- OUT_LEN (R36) -/
  outLen : Byte
  /-- PASS_LEN (R37) -/
  passLen : Byte
  /-- SAMPLE, KEY, PASS, IN and OUT (R38 to R43) -/
  mem : Memory
  /-- CIPHER and KEY_FILL of this instance (00_scope.md R8); no step changes it -/
  cfg : Config.Params
  /-- the moves still to come, oldest first -/
  agenda : List Event
  /-- what bus reads returned to the host, newest first -/
  readLog : List (Addr × Byte)
  /-- the number of the next free draw -/
  draw : Nat
  deriving DecidableEq, Repr

/-- The three outcomes of a step on this machine. -/
abbrev Out := Host.Outcome State Fault Refusal

/-- The codec right after reset (70_reset_and_hazards.md R330): control, result and length registers `0x00`, every data byte undefined. The model's own fields: log 4. -/
def State.reset : State where
  cmd := 0x00
  busy := false
  done := false
  errBusy := false
  keyValid := false
  integrity := false
  result := 0x00
  crc := 0x00
  rxcrc := 0x00
  inLen := 0x00
  outLen := 0x00
  passLen := 0x00
  mem := []
  cfg := Config.Params.openInstance
  agenda := []
  readLog := []
  draw := 0

end Sys2Proof.Machine
end

