-- ==== Sys2Proof/Machine/Ops.lean ====
section
/-! DEFINITION. The named operations over the register window, the data bytes and the registers, and the ONE way a command ends (`complete`) or starts (`issue`). -/

namespace Sys2Proof.Machine

/-! ### The address map (20_memory.md R61) -/

/-- `BUF_SIZE`, the size of IN and of OUT (00_scope.md R7). -/
def bufSize : Nat := 128
/-- The address of SAMPLE_ID; SAMPLE_Fi follow at `0x014 + 4i` (20_memory.md R61). -/
def sampleBase : Nat := 0x010
/-- The address of KEY[0]. -/
def keyBase : Nat := 0x030
/-- The address of PASS[0]. -/
def passBase : Nat := 0x040
/-- The address of IN[0]. -/
def inBase : Nat := 0x100
/-- The address of OUT[0]. -/
def outBase : Nat := 0x200

/-- The one-byte registers at `0x000` to `0x007`; `0x008` to `0x00F` are reserved (20_memory.md R61). -/
def controlRegionAt (a : Nat) : Region :=
  match a with
  | 0x000 => .cmd
  | 0x001 => .status
  | 0x002 => .result
  | 0x003 => .crc
  | 0x004 => .rxcrc
  | 0x005 => .inLen
  | 0x006 => .outLen
  | 0x007 => .passLen
  | _ => .reserved

/-- The map of 20_memory.md R61. -/
def regionAt (a : Nat) : Region :=
  if a < 0x010 then controlRegionAt a
  else if a < 0x028 then .sample
  else if a < 0x030 then .reserved
  else if a < 0x040 then .key
  else if a < 0x050 then .pass
  else if a < 0x100 then .reserved
  else if a < 0x180 then .inBuf
  else if a < 0x200 then .reserved
  else if a < 0x280 then .outBuf
  else .reserved

/-- The regions whose bytes `mem` holds. -/
def Region.isData : Region → Bool
  | .sample | .key | .pass | .inBuf | .outBuf => true
  | .cmd | .status | .result | .crc | .rxcrc | .inLen | .outLen | .passLen | .reserved => false

/-! ### The data bytes -/

/-- The defined byte at an address, or `none` where the byte is undefined (10_state.md R45). -/
def Memory.read : Memory → Nat → Option Byte
  | [], _ => none
  | c :: rest, a => if c.1 = a then some c.2 else Memory.read rest a

/-- Gives the byte at an address a value; it is no longer undefined. Keeps the cells in rising order of address. -/
def Memory.write : Memory → Nat → Byte → Memory
  | [], a, v => [(a, v)]
  | c :: rest, a, v =>
    if a < c.1 then (a, v) :: c :: rest
    else if a = c.1 then (a, v) :: rest
    else c :: Memory.write rest a v

/-- The byte string at consecutive addresses from `a` on (`MemWrite`, 00_scope.md R12; 20_memory.md R70). Irreducible, so that a proof meets it by the lemmas of Laws/Memory.lean and never as a tower of writes. -/
@[irreducible] def Memory.writeBytes (m : Memory) (a : Nat) : List Byte → Memory
  | [] => m
  | v :: vs => Memory.writeBytes (Memory.write m a v) (a + 1) vs

/-- The addresses of the cells rise strictly. -/
def Memory.rising : Memory → Bool
  | [] => true
  | [_] => true
  | c :: d :: rest => decide (c.1 < d.1) && Memory.rising (d :: rest)

/-- The canonical form: addresses strictly rising, and every cell in SAMPLE, KEY, PASS, IN or OUT. An unlisted address reads as undefined, so no cell can equal what it would read as unlisted. -/
def Memory.wf (m : Memory) : Bool :=
  Memory.rising m && m.all (fun c => (regionAt c.1).isData)

/-! ### Register updates -/

def setErrBusy (b : Bool) (s : State) : State := { s with errBusy := b }
def setKeyValid (b : Bool) (s : State) : State := { s with keyValid := b }
def setIntegrity (b : Bool) (s : State) : State := { s with integrity := b }
def setCrc (v : Byte) (s : State) : State := { s with crc := v }
def setRxcrc (v : Byte) (s : State) : State := { s with rxcrc := v }
def setInLen (v : Byte) (s : State) : State := { s with inLen := v }
def setOutLen (v : Byte) (s : State) : State := { s with outLen := v }
def setPassLen (v : Byte) (s : State) : State := { s with passLen := v }
def setAgenda (l : List Event) (s : State) : State := { s with agenda := l }
def nextDraw (s : State) : State := { s with draw := s.draw + 1 }
def logRead (a : Addr) (v : Byte) (s : State) : State := { s with readLog := (a, v) :: s.readLog }

/-- `MemWrite(a, n, bs)` on the data bytes (00_scope.md R12). -/
def storeBytes (a : Nat) (bs : List Byte) (s : State) : State := { s with mem := Memory.writeBytes s.mem a bs }

/-- Writes `OUT[0..m)` and `OUT_LEN = m`, and leaves `OUT[m..128)` unchanged (10_state.md R43). -/
def writeOut (bs : List Byte) (s : State) : State :=
  setOutLen (BitVec.ofNat 8 bs.length) (storeBytes outBase bs s)

/-! ### Issue and completion -/

/-- The code of a result (60_exceptions.md R300). -/
def ResultCode.code : ResultCode → Byte
  | .ok => 0x00
  | .shortFrame => 0x01
  | .crcMismatch => 0x02
  | .decryptFailure => 0x03
  | .formatError => 0x04
  | .valueError => 0x05
  | .noKey => 0x06
  | .keyLocked => 0x07
  | .lengthError => 0x08
  | .illegalCommand => 0x09

/-- Issue of a command (40_command_engine.md R120). -/
def issue (v : Byte) (s : State) : State := { s with cmd := v, busy := true, done := false }

/-- The completion step's own writes (40_command_engine.md R121). It is the only way a command ends, whatever the outcome: this hardware's one way of raising an error, and of returning from one (00_scope.md R12, 60_exceptions.md R300 to R305). The draws the command made are behind it: the draw number advances. -/
def complete (c : ResultCode) (s : State) : State :=
  { s with result := c.code, busy := false, done := true, draw := s.draw + 1 }

/-- A command that ends with `c` and writes nothing else (40_command_engine.md R124). -/
def finish (c : ResultCode) (s : State) : Out := .next (complete c s)

/-- Check 2 of 40_command_engine.md R123: a command of `NEEDS_KEY` completes with NoKey while KEY_VALID = 0 (R127). -/
def withKey (s : State) (body : Out) : Out := if s.keyValid then body else finish .noKey s

/-- Check 4 of 40_command_engine.md R123: LengthError when `IN_LEN > BUF_SIZE` (R128). -/
def withInput (s : State) (body : Out) : Out := if bufSize < s.inLen.toNat then finish .lengthError s else body

/-- Reset by the platform (70_reset_and_hazards.md R330): all of 10_state.md R23 as reset leaves it. A command in flight is abandoned. The instance's parameters, the moves still to come, the host's log and the draw number are not codec state (log 10). -/
def platformReset (s : State) : State :=
  { State.reset with cfg := s.cfg, agenda := s.agenda, readLog := s.readLog, draw := s.draw }

end Sys2Proof.Machine
end

