-- ==== Sys2Proof/Machine/Operands.lean ====
section
/-! DEFINITION. The operands of the commands: bytes as the engine sees them, the input string, the key, the passphrase and the sample registers (30_encoding.md R91). -/

namespace Sys2Proof.Machine

/-- The byte at a data address as a read sees it: the defined byte, or a free draw where it is undefined (10_state.md R45; logs 3, 7). -/
def byteAt (s : State) (a : Nat) : Byte := (Memory.read s.mem a).getD (Config.freeByte s.draw a)

/-- `MemRead(a, n)`: the `n` bytes from `a` on (00_scope.md R12). -/
def memRead (s : State) (a : Nat) : Nat → List Byte
  | 0 => []
  | n + 1 => byteAt s a :: memRead s (a + 1) n

/-- `InBytes = IN[0..IN_LEN)` (40_command_engine.md R128). -/
def inBytes (s : State) : List Byte := memRead s inBase s.inLen.toNat

/-- Sixteen bytes as a block; the first byte is byte 0. -/
def toBlock (bs : List Byte) : Block := Vector.ofFn (fun i : Fin 16 => bs.getD i.val 0)

/-- `IN[0..16)` as a block (42_cipher.md R170). -/
def inBlock (s : State) : Block := toBlock (memRead s inBase 16)

/-- `K = KEY[0..16)` (40_command_engine.md R131). -/
def keyOf (s : State) : Key := toBlock (memRead s keyBase 16)

/-- The passphrase bytes that DERIVE_KEY reads, `PASS[0..min(PASS_LEN,16))` (10_state.md R37, R41). -/
def passBytes (s : State) : List Byte := memRead s passBase (min s.passLen.toNat 16)

/-- `le32(v)`: bits 7:0 first (45_decoder.md R267, 20_memory.md R69). -/
def le32 (v : Word32) : List Byte := [v.extractLsb' 0 8, v.extractLsb' 8 8, v.extractLsb' 16 8, v.extractLsb' 24 8]

/-- A 32-bit register from its four bytes, byte `j` holding bits `8j+7:8j` (20_memory.md R69). -/
def word32 (b0 b1 b2 b3 : Byte) : Word32 := b3 ++ b2 ++ b1 ++ b0

/-- The 32-bit register at base address `a`. -/
def wordAt (s : State) (a : Nat) : Word32 := word32 (byteAt s a) (byteAt s (a + 1)) (byteAt s (a + 2)) (byteAt s (a + 3))

/-- SAMPLE_ID and SAMPLE_F0 to SAMPLE_F4 as the engine reads them (10_state.md R38, R39). -/
def sampleOf (s : State) : Sample where
  id := wordAt s 0x010
  f0 := wordAt s 0x014
  f1 := wordAt s 0x018
  f2 := wordAt s 0x01C
  f3 := wordAt s 0x020
  f4 := wordAt s 0x024

/-- The 24 bytes of the sample registers, from SAMPLE_ID on (20_memory.md R61, R69). -/
def sampleBytes (p : Sample) : List Byte := le32 p.id ++ le32 p.f0 ++ le32 p.f1 ++ le32 p.f2 ++ le32 p.f3 ++ le32 p.f4

/-- Writes all six sample registers (45_decoder.md R267). -/
def writeSample (p : Sample) (s : State) : State := storeBytes sampleBase (sampleBytes p) s

end Sys2Proof.Machine
end

