-- ==== Sys2Proof/Machine/Flags.lean ====
section
/-! DEFINITION. The STATUS register: its layout (10_state.md R25), what a host read of it gives (20_memory.md R63, R66), and what a host write of it does (10_state.md R28). -/

namespace Sys2Proof.Machine

/-- STATUS from its fields: bits 7:5 read 0, then INTEGRITY, KEY_VALID, ERR_BUSY, DONE and BUSY (10_state.md R25, R31). -/
def statusByte (integrity keyValid errBusy done busy : Bool) : Byte :=
  0#3 ++ BitVec.ofBool integrity ++ BitVec.ofBool keyValid ++ BitVec.ofBool errBusy ++ BitVec.ofBool done ++ BitVec.ofBool busy

/-- The true value of STATUS. -/
def statusOf (s : State) : Byte := statusByte s.integrity s.keyValid s.errBusy s.done s.busy

/-- Bit `i` of the free draw at the address of STATUS. -/
def freeStatusBit (s : State) (i : Nat) : Bool := (Config.freeByte s.draw 0x001).getLsbD i

/-- What a host read of STATUS gives: the true values, but an arbitrary KEY_VALID during DERIVE_KEY and an arbitrary INTEGRITY during DECODE (20_memory.md R66). -/
def statusRead (s : State) : Byte :=
  statusByte
    (if s.busy && decide (decodeC8 s.cmd = .decode) then freeStatusBit s 4 else s.integrity)
    (if s.busy && decide (decodeC8 s.cmd = .deriveKey) then freeStatusBit s 3 else s.keyValid)
    s.errBusy s.done s.busy

/-- A host write of `v` to STATUS: bit 2 = 1 clears ERR_BUSY, and nothing else happens (10_state.md R28, R31). -/
def statusWrite (v : Byte) (s : State) : State := if v.getLsbD 2 then setErrBusy false s else s

end Sys2Proof.Machine
end

