-- ==== Sys2Proof/Machine/Bus.lean ====
section
/-! DEFINITION. The host's bus transactions: BUS_RD (20_memory.md R63, R66, R67) and BUS_WR (R64, R65). -/

namespace Sys2Proof.Machine

/-- `MayWrite(op)` of 20_memory.md R66, as regions of the map. A host transaction is no command and has none. -/
def mayWrite : Instr → List Region
  | .nop => [.result]
  | .crc => [.result, .crc]
  | .deriveKey => [.result, .key]
  | .blockEnc => [.result, .outBuf, .outLen]
  | .blockDec => [.result, .outBuf, .outLen]
  | .encrypt => [.result, .outBuf, .outLen]
  | .decrypt => [.result, .outBuf, .outLen]
  | .serialize => [.result, .outBuf, .outLen]
  | .encode => [.result, .outBuf, .outLen, .crc]
  | .parse => [.result, .sample]
  | .decode => [.result, .sample, .crc, .rxcrc]
  | .illegal _ => [.result]
  | .busWr _ _ => []
  | .busRd _ => []

/-- The value held at an address, or `none` for an undefined byte (20_memory.md R61, R62, R63). -/
def held (s : State) (a : Nat) : Option Byte :=
  match regionAt a with
  | .cmd => some s.cmd
  | .status => some (statusOf s)
  | .result => some s.result
  | .crc => some s.crc
  | .rxcrc => some s.rxcrc
  | .inLen => some s.inLen
  | .outLen => some s.outLen
  | .passLen => some s.passLen
  | .sample => Memory.read s.mem a
  | .key => Memory.read s.mem a
  | .pass => Memory.read s.mem a
  | .inBuf => Memory.read s.mem a
  | .outBuf => Memory.read s.mem a
  | .reserved => some 0x00

/-- A read of this address is in flight: a command is pending and may write it (20_memory.md R66). -/
def inFlight (s : State) (a : Nat) : Bool := s.busy && decide (regionAt a ∈ mayWrite (decodeC8 s.cmd))

/-- `BusRead(a)`: the byte the host gets (20_memory.md R63). An in-flight read (R66) and a read of an undefined byte (10_state.md R45) give a free draw. -/
def busRead (s : State) (a : Nat) : Byte :=
  if inFlight s a then Config.freeByte s.draw a
  else if regionAt a = .status then statusRead s
  else (held s a).getD (Config.freeByte s.draw a)

/-- A host write to an address other than STATUS while BUSY = 0 (20_memory.md R64). -/
def busWriteIdle (a : Nat) (v : Byte) (s : State) : State :=
  match regionAt a with
  | .cmd => issue v s
  | .inLen => setInLen v s
  | .passLen => setPassLen v s
  | .sample => storeBytes a [v] s
  | .pass => storeBytes a [v] s
  | .inBuf => storeBytes a [v] s
  | .status => s
  | .result => s
  | .crc => s
  | .rxcrc => s
  | .outLen => s
  | .key => s
  | .outBuf => s
  | .reserved => s

/-- `BusWrite(a, v)` (20_memory.md R64, R65). -/
def busWrite (a : Nat) (v : Byte) (s : State) : State :=
  if regionAt a = .status then statusWrite v s
  else if s.busy then setErrBusy true s
  else busWriteIdle a v s

/-- BUS_WR (20_memory.md R64). -/
def execBusWr (a : Addr) (v : Byte) (s : State) : Out := .next (busWrite a.toNat v s)

/-- BUS_RD (20_memory.md R63): the host gets the byte, and no codec state changes (R67). The draw number advances, so that the next read draws anew. -/
def execBusRd (a : Addr) (s : State) : Out := .next (nextDraw (logRead a (busRead s a.toNat) s))

end Sys2Proof.Machine
end

