-- ==== Sys2Proof/Machine/Checksum.lean ====
section
/-! DEFINITION. The checksum unit: the 8-bit reduction (41_checksum.md R140, R141) and the CRC command (R145). -/

namespace Sys2Proof.Machine

/-- `CRC_POLY` (00_scope.md R6). -/
def crcPoly : Byte := 0x07

/-- `CRC_INIT` (00_scope.md R6). -/
def crcInit : Byte := 0x00

/-- One of the 8 iterations of 41_checksum.md R140: shift left, and XOR the generator when the vacated top bit was 1. -/
def crcShift (r : Byte) : Byte := if r.getLsbD 7 then (r <<< 1) ^^^ crcPoly else r <<< 1

/-- `n` iterations. -/
def crcShifts : Nat → Byte → Byte
  | 0, r => r
  | n + 1, r => crcShifts n (crcShift r)

/-- `crc8_step(r, b)` (41_checksum.md R140). -/
def crc8Step (r b : Byte) : Byte := crcShifts 8 (r ^^^ b)

/-- `checksum(s)`: the left fold from `CRC_INIT`, with no final XOR (41_checksum.md R141). -/
def checksum (bs : List Byte) : Byte := bs.foldl crc8Step crcInit

/-- CRC (41_checksum.md R145). -/
def execCrc (s : State) : Out := withInput s (finish .ok (setCrc (checksum (inBytes s)) s))

end Sys2Proof.Machine
end

