-- ==== Sys2Proof/Machine/Aes128.lean ====
section
/-! DEFINITION. AES-128, the reference instantiation of CIPHER (43_cipher_aes128_reference.md R200 to R210). The whole file is general knowledge that the spec supplies; log 6. -/

namespace Sys2Proof.Machine

/-! ### Field arithmetic and the S-boxes (R202 to R204) -/

/-- `xtime(a)` (R202). -/
def xtime (a : Byte) : Byte := if a.getLsbD 7 then (a <<< 1) ^^^ 0x1B#8 else a <<< 1

/-- The xor of `xtime^i(a)` over the bits `i < n` with `b[i] = 1`, lowest bit first. -/
def gmulBits : Nat → Byte → Byte → Byte
  | 0, _, _ => 0
  | n + 1, a, b => (if b.getLsbD 0 then a else 0) ^^^ gmulBits n (xtime a) (b >>> 1)

/-- Multiplication `a • b` in GF(2^8) (R202). -/
def gmul (a b : Byte) : Byte := gmulBits 8 a b

/-- SBOX, one row for each high nibble (R203). -/
def sboxRow : Nat → List Byte
  | 0x0 => [0x63, 0x7C, 0x77, 0x7B, 0xF2, 0x6B, 0x6F, 0xC5, 0x30, 0x01, 0x67, 0x2B, 0xFE, 0xD7, 0xAB, 0x76]
  | 0x1 => [0xCA, 0x82, 0xC9, 0x7D, 0xFA, 0x59, 0x47, 0xF0, 0xAD, 0xD4, 0xA2, 0xAF, 0x9C, 0xA4, 0x72, 0xC0]
  | 0x2 => [0xB7, 0xFD, 0x93, 0x26, 0x36, 0x3F, 0xF7, 0xCC, 0x34, 0xA5, 0xE5, 0xF1, 0x71, 0xD8, 0x31, 0x15]
  | 0x3 => [0x04, 0xC7, 0x23, 0xC3, 0x18, 0x96, 0x05, 0x9A, 0x07, 0x12, 0x80, 0xE2, 0xEB, 0x27, 0xB2, 0x75]
  | 0x4 => [0x09, 0x83, 0x2C, 0x1A, 0x1B, 0x6E, 0x5A, 0xA0, 0x52, 0x3B, 0xD6, 0xB3, 0x29, 0xE3, 0x2F, 0x84]
  | 0x5 => [0x53, 0xD1, 0x00, 0xED, 0x20, 0xFC, 0xB1, 0x5B, 0x6A, 0xCB, 0xBE, 0x39, 0x4A, 0x4C, 0x58, 0xCF]
  | 0x6 => [0xD0, 0xEF, 0xAA, 0xFB, 0x43, 0x4D, 0x33, 0x85, 0x45, 0xF9, 0x02, 0x7F, 0x50, 0x3C, 0x9F, 0xA8]
  | 0x7 => [0x51, 0xA3, 0x40, 0x8F, 0x92, 0x9D, 0x38, 0xF5, 0xBC, 0xB6, 0xDA, 0x21, 0x10, 0xFF, 0xF3, 0xD2]
  | 0x8 => [0xCD, 0x0C, 0x13, 0xEC, 0x5F, 0x97, 0x44, 0x17, 0xC4, 0xA7, 0x7E, 0x3D, 0x64, 0x5D, 0x19, 0x73]
  | 0x9 => [0x60, 0x81, 0x4F, 0xDC, 0x22, 0x2A, 0x90, 0x88, 0x46, 0xEE, 0xB8, 0x14, 0xDE, 0x5E, 0x0B, 0xDB]
  | 0xA => [0xE0, 0x32, 0x3A, 0x0A, 0x49, 0x06, 0x24, 0x5C, 0xC2, 0xD3, 0xAC, 0x62, 0x91, 0x95, 0xE4, 0x79]
  | 0xB => [0xE7, 0xC8, 0x37, 0x6D, 0x8D, 0xD5, 0x4E, 0xA9, 0x6C, 0x56, 0xF4, 0xEA, 0x65, 0x7A, 0xAE, 0x08]
  | 0xC => [0xBA, 0x78, 0x25, 0x2E, 0x1C, 0xA6, 0xB4, 0xC6, 0xE8, 0xDD, 0x74, 0x1F, 0x4B, 0xBD, 0x8B, 0x8A]
  | 0xD => [0x70, 0x3E, 0xB5, 0x66, 0x48, 0x03, 0xF6, 0x0E, 0x61, 0x35, 0x57, 0xB9, 0x86, 0xC1, 0x1D, 0x9E]
  | 0xE => [0xE1, 0xF8, 0x98, 0x11, 0x69, 0xD9, 0x8E, 0x94, 0x9B, 0x1E, 0x87, 0xE9, 0xCE, 0x55, 0x28, 0xDF]
  | 0xF => [0x8C, 0xA1, 0x89, 0x0D, 0xBF, 0xE6, 0x42, 0x68, 0x41, 0x99, 0x2D, 0x0F, 0xB0, 0x54, 0xBB, 0x16]
  | _ => []

/-- INV_SBOX, one row for each high nibble (R204). -/
def invSboxRow : Nat → List Byte
  | 0x0 => [0x52, 0x09, 0x6A, 0xD5, 0x30, 0x36, 0xA5, 0x38, 0xBF, 0x40, 0xA3, 0x9E, 0x81, 0xF3, 0xD7, 0xFB]
  | 0x1 => [0x7C, 0xE3, 0x39, 0x82, 0x9B, 0x2F, 0xFF, 0x87, 0x34, 0x8E, 0x43, 0x44, 0xC4, 0xDE, 0xE9, 0xCB]
  | 0x2 => [0x54, 0x7B, 0x94, 0x32, 0xA6, 0xC2, 0x23, 0x3D, 0xEE, 0x4C, 0x95, 0x0B, 0x42, 0xFA, 0xC3, 0x4E]
  | 0x3 => [0x08, 0x2E, 0xA1, 0x66, 0x28, 0xD9, 0x24, 0xB2, 0x76, 0x5B, 0xA2, 0x49, 0x6D, 0x8B, 0xD1, 0x25]
  | 0x4 => [0x72, 0xF8, 0xF6, 0x64, 0x86, 0x68, 0x98, 0x16, 0xD4, 0xA4, 0x5C, 0xCC, 0x5D, 0x65, 0xB6, 0x92]
  | 0x5 => [0x6C, 0x70, 0x48, 0x50, 0xFD, 0xED, 0xB9, 0xDA, 0x5E, 0x15, 0x46, 0x57, 0xA7, 0x8D, 0x9D, 0x84]
  | 0x6 => [0x90, 0xD8, 0xAB, 0x00, 0x8C, 0xBC, 0xD3, 0x0A, 0xF7, 0xE4, 0x58, 0x05, 0xB8, 0xB3, 0x45, 0x06]
  | 0x7 => [0xD0, 0x2C, 0x1E, 0x8F, 0xCA, 0x3F, 0x0F, 0x02, 0xC1, 0xAF, 0xBD, 0x03, 0x01, 0x13, 0x8A, 0x6B]
  | 0x8 => [0x3A, 0x91, 0x11, 0x41, 0x4F, 0x67, 0xDC, 0xEA, 0x97, 0xF2, 0xCF, 0xCE, 0xF0, 0xB4, 0xE6, 0x73]
  | 0x9 => [0x96, 0xAC, 0x74, 0x22, 0xE7, 0xAD, 0x35, 0x85, 0xE2, 0xF9, 0x37, 0xE8, 0x1C, 0x75, 0xDF, 0x6E]
  | 0xA => [0x47, 0xF1, 0x1A, 0x71, 0x1D, 0x29, 0xC5, 0x89, 0x6F, 0xB7, 0x62, 0x0E, 0xAA, 0x18, 0xBE, 0x1B]
  | 0xB => [0xFC, 0x56, 0x3E, 0x4B, 0xC6, 0xD2, 0x79, 0x20, 0x9A, 0xDB, 0xC0, 0xFE, 0x78, 0xCD, 0x5A, 0xF4]
  | 0xC => [0x1F, 0xDD, 0xA8, 0x33, 0x88, 0x07, 0xC7, 0x31, 0xB1, 0x12, 0x10, 0x59, 0x27, 0x80, 0xEC, 0x5F]
  | 0xD => [0x60, 0x51, 0x7F, 0xA9, 0x19, 0xB5, 0x4A, 0x0D, 0x2D, 0xE5, 0x7A, 0x9F, 0x93, 0xC9, 0x9C, 0xEF]
  | 0xE => [0xA0, 0xE0, 0x3B, 0x4D, 0xAE, 0x2A, 0xF5, 0xB0, 0xC8, 0xEB, 0xBB, 0x3C, 0x83, 0x53, 0x99, 0x61]
  | 0xF => [0x17, 0x2B, 0x04, 0x7E, 0xBA, 0x77, 0xD6, 0x26, 0xE1, 0x69, 0x14, 0x63, 0x55, 0x21, 0x0C, 0x7D]
  | _ => []

/-- `SBOX[a]` (R203): row by the high nibble, column by the low nibble. -/
def sbox (a : Byte) : Byte := (sboxRow (a.toNat / 16)).getD (a.toNat % 16) 0

/-- `INV_SBOX[a]` (R204). -/
def invSbox (a : Byte) : Byte := (invSboxRow (a.toNat / 16)).getD (a.toNat % 16) 0

/-! ### The state and the round keys (R201, R205) -/

/-- Four bytes, byte 0 in row 0: a key word, or one column of the state (R201). -/
structure Column where
  b0 : Byte
  b1 : Byte
  b2 : Byte
  b3 : Byte
  deriving DecidableEq, Repr

/-- The 4x4 state, or a round key, as its four columns (R201, R205). -/
structure Columns where
  c0 : Column
  c1 : Column
  c2 : Column
  c3 : Column
  deriving DecidableEq, Repr

def Column.xor (x y : Column) : Column := ⟨x.b0 ^^^ y.b0, x.b1 ^^^ y.b1, x.b2 ^^^ y.b2, x.b3 ^^^ y.b3⟩

def Column.map (f : Byte → Byte) (x : Column) : Column := ⟨f x.b0, f x.b1, f x.b2, f x.b3⟩

def Columns.map (f : Column → Column) (s : Columns) : Columns := ⟨f s.c0, f s.c1, f s.c2, f s.c3⟩

/-- `s[r][c] = in[r + 4c]` (R201). -/
def Columns.ofBlock (b : Block) : Columns :=
  ⟨⟨b[0], b[1], b[2], b[3]⟩, ⟨b[4], b[5], b[6], b[7]⟩, ⟨b[8], b[9], b[10], b[11]⟩, ⟨b[12], b[13], b[14], b[15]⟩⟩

/-- `out[r + 4c] = s[r][c]` (R201). -/
def Columns.toBlock (s : Columns) : Block :=
  #v[s.c0.b0, s.c0.b1, s.c0.b2, s.c0.b3, s.c1.b0, s.c1.b1, s.c1.b2, s.c1.b3,
     s.c2.b0, s.c2.b1, s.c2.b2, s.c2.b3, s.c3.b0, s.c3.b1, s.c3.b2, s.c3.b3]

/-- `RotWord` (R205). -/
def rotWord (w : Column) : Column := ⟨w.b1, w.b2, w.b3, w.b0⟩

/-- `SubWord` (R205). -/
def subWord (w : Column) : Column := Column.map sbox w

/-- `RC[1..10]` (R205): `RC[1] = 01` and `RC[j+1] = xtime(RC[j])`. `RC[0]` is not used. -/
def roundConstant : Nat → Byte
  | 0 => 0x00
  | 1 => 0x01
  | j + 2 => xtime (roundConstant (j + 1))

/-- The four words `w[4j..4j+4)` after the four before them, with `rc = RC[j]` (R205). -/
def nextRoundKey (rc : Byte) (k : Columns) : Columns :=
  let w0 := Column.xor k.c0 (Column.xor (subWord (rotWord k.c3)) ⟨rc, 0x00, 0x00, 0x00⟩)
  let w1 := Column.xor k.c1 w0
  let w2 := Column.xor k.c2 w1
  let w3 := Column.xor k.c3 w2
  ⟨w0, w1, w2, w3⟩

/-- Round key `j`, `w[4j..4j+4)` (R205). -/
def roundKey (k : Key) : Nat → Columns
  | 0 => Columns.ofBlock k
  | j + 1 => nextRoundKey (roundConstant (j + 1)) (roundKey k j)

/-! ### The round transformations (R206, R207, R209) -/

/-- `AddRoundKey` with the round key given (R206). -/
def addRoundKey (k s : Columns) : Columns := ⟨Column.xor s.c0 k.c0, Column.xor s.c1 k.c1, Column.xor s.c2 k.c2, Column.xor s.c3 k.c3⟩

def subBytes (s : Columns) : Columns := Columns.map (Column.map sbox) s

def invSubBytes (s : Columns) : Columns := Columns.map (Column.map invSbox) s

/-- `s'[r][c] = s[r][(c + r) mod 4]` (R207). -/
def shiftRows (s : Columns) : Columns :=
  ⟨⟨s.c0.b0, s.c1.b1, s.c2.b2, s.c3.b3⟩, ⟨s.c1.b0, s.c2.b1, s.c3.b2, s.c0.b3⟩,
   ⟨s.c2.b0, s.c3.b1, s.c0.b2, s.c1.b3⟩, ⟨s.c3.b0, s.c0.b1, s.c1.b2, s.c2.b3⟩⟩

/-- `s'[r][(c + r) mod 4] = s[r][c]` (R209). -/
def invShiftRows (s : Columns) : Columns :=
  ⟨⟨s.c0.b0, s.c3.b1, s.c2.b2, s.c1.b3⟩, ⟨s.c1.b0, s.c0.b1, s.c3.b2, s.c2.b3⟩,
   ⟨s.c2.b0, s.c1.b1, s.c0.b2, s.c3.b3⟩, ⟨s.c3.b0, s.c2.b1, s.c1.b2, s.c0.b3⟩⟩

/-- One row of the matrix of `MixColumns` or `InvMixColumns` applied to a column. -/
def mixRow (m0 m1 m2 m3 : Byte) (a : Column) : Byte := gmul m0 a.b0 ^^^ gmul m1 a.b1 ^^^ gmul m2 a.b2 ^^^ gmul m3 a.b3

/-- `MixColumns` on one column (R207). -/
def mixColumn (a : Column) : Column :=
  ⟨mixRow 0x02 0x03 0x01 0x01 a, mixRow 0x01 0x02 0x03 0x01 a, mixRow 0x01 0x01 0x02 0x03 a, mixRow 0x03 0x01 0x01 0x02 a⟩

/-- `InvMixColumns` on one column (R209). -/
def invMixColumn (a : Column) : Column :=
  ⟨mixRow 0x0E 0x0B 0x0D 0x09 a, mixRow 0x09 0x0E 0x0B 0x0D a, mixRow 0x0D 0x09 0x0E 0x0B a, mixRow 0x0B 0x0D 0x09 0x0E a⟩

def mixColumns (s : Columns) : Columns := Columns.map mixColumn s

def invMixColumns (s : Columns) : Columns := Columns.map invMixColumn s

/-! ### The cipher and its inverse (R208, R210) -/

/-- The middle rounds 1 to `n` of the cipher (R208). -/
def aesRounds (k : Key) : Nat → Columns → Columns
  | 0, s => s
  | n + 1, s => addRoundKey (roundKey k (n + 1)) (mixColumns (shiftRows (subBytes (aesRounds k n s))))

/-- `AES128_Cipher(k, in)` (R208). -/
def aesCipher (k : Key) (b : Block) : Block :=
  let s := aesRounds k 9 (addRoundKey (roundKey k 0) (Columns.ofBlock b))
  Columns.toBlock (addRoundKey (roundKey k 10) (shiftRows (subBytes s)))

/-- The middle rounds `n` down to 1 of the inverse cipher (R210). -/
def aesInvRounds (k : Key) : Nat → Columns → Columns
  | 0, s => s
  | n + 1, s => aesInvRounds k n (invMixColumns (addRoundKey (roundKey k (n + 1)) (invSubBytes (invShiftRows s))))

/-- `AES128_InvCipher(k, in)` (R210). -/
def aesInvCipher (k : Key) (b : Block) : Block :=
  let s := aesInvRounds k 9 (addRoundKey (roundKey k 10) (Columns.ofBlock b))
  Columns.toBlock (addRoundKey (roundKey k 0) (invSubBytes (invShiftRows s)))

end Sys2Proof.Machine
end

