-- ==== Sys2Proof/Machine/Cipher.lean ====
section
/-! DEFINITION. The block cipher core: CIPHER, key derivation, padding, ECB (42_cipher.md R160 to R166), and its five commands (R169 to R173). -/

namespace Sys2Proof.Machine

/-! ### Functions -/

/-- `E(k, b)` of the instance's CIPHER (42_cipher.md R160). -/
def cipherE (c : Config.CipherChoice) (k : Key) (b : Block) : Block :=
  match c with
  | .anyCipher => Config.openCipher k b
  | .aes128 => aesCipher k b

/-- `D(k, b)` of the instance's CIPHER (42_cipher.md R160). -/
def cipherD (c : Config.CipherChoice) (k : Key) (b : Block) : Block :=
  match c with
  | .anyCipher => (Config.openCipher k).symm b
  | .aes128 => aesInvCipher k b

/-- `derive_key`: the first 16 passphrase bytes, filled up on the right (42_cipher.md R161). -/
def deriveKeyBytes (fill : Byte) (p : List Byte) : List Byte := p.take 16 ++ List.replicate (16 - p.length) fill

/-- `pad(p)`: `k` bytes of value `k`, to a multiple of 16, at least one (42_cipher.md R162). -/
def pad (p : List Byte) : List Byte :=
  let k := 16 - p.length % 16
  p ++ List.replicate k (BitVec.ofNat 8 k)

/-- `unpad(q)`: `none` is the rule's `fail` (42_cipher.md R163). -/
def unpad (q : List Byte) : Option (List Byte) :=
  let last := q.getD (q.length - 1) 0
  let k := last.toNat
  if k < 1 ∨ 16 < k then none
  else if (q.drop (q.length - k)).all (fun b => b == last) then some (q.take (q.length - k))
  else none

/-- `n` blocks of a byte string, each through `f`, in order (42_cipher.md R164). -/
def ecbBlocks (f : Block → Block) : Nat → List Byte → List Byte
  | 0, _ => []
  | n + 1, bs => (f (toBlock (bs.take 16))).toList ++ ecbBlocks f n (bs.drop 16)

/-- `ecb_enc(k, p)` (42_cipher.md R164). -/
def ecbEnc (c : Config.CipherChoice) (k : Key) (p : List Byte) : List Byte := ecbBlocks (cipherE c k) (p.length / 16) p

/-- `ecb_dec(k, c)` (42_cipher.md R164). -/
def ecbDec (c : Config.CipherChoice) (k : Key) (p : List Byte) : List Byte := ecbBlocks (cipherD c k) (p.length / 16) p

/-- `encrypt(k, p)` (42_cipher.md R165). -/
def encryptBytes (c : Config.CipherChoice) (k : Key) (p : List Byte) : List Byte := ecbEnc c k (pad p)

/-- `decrypt(k, c)`; `none` is the rule's `fail` (42_cipher.md R166). -/
def decryptBytes (c : Config.CipherChoice) (k : Key) (q : List Byte) : Option (List Byte) :=
  if q.length = 0 ∨ q.length % 16 ≠ 0 then none else unpad (ecbDec c k q)

/-! ### Commands -/

/-- DERIVE_KEY (42_cipher.md R169). -/
def execDeriveKey (s : State) : Out :=
  if s.keyValid then finish .keyLocked s
  else finish .ok (setKeyValid true (storeBytes keyBase (deriveKeyBytes s.cfg.keyFill (passBytes s)) s))

/-- BLOCK_ENC (42_cipher.md R170). -/
def execBlockEnc (s : State) : Out :=
  withKey s
    (if s.inLen.toNat ≠ 16 then finish .lengthError s
     else finish .ok (writeOut (cipherE s.cfg.cipher (keyOf s) (inBlock s)).toList s))

/-- BLOCK_DEC (42_cipher.md R171). -/
def execBlockDec (s : State) : Out :=
  withKey s
    (if s.inLen.toNat ≠ 16 then finish .lengthError s
     else finish .ok (writeOut (cipherD s.cfg.cipher (keyOf s) (inBlock s)).toList s))

/-- ENCRYPT (42_cipher.md R172): the padded output must fit OUT. -/
def execEncrypt (s : State) : Out :=
  withKey s
    (withInput s
      (if bufSize < 16 * (s.inLen.toNat / 16 + 1) then finish .lengthError s
       else finish .ok (writeOut (encryptBytes s.cfg.cipher (keyOf s) (inBytes s)) s)))

/-- DECRYPT (42_cipher.md R173). -/
def execDecrypt (s : State) : Out :=
  withKey s
    (withInput s
      (match decryptBytes s.cfg.cipher (keyOf s) (inBytes s) with
       | none => finish .decryptFailure s
       | some r => finish .ok (writeOut r s)))

end Sys2Proof.Machine
end

