-- ==== Sys2Proof/Machine/Encoder.lean ====
section
/-! DEFINITION. The packet encoder: decimal text, serialization, the frame (44_encoder.md R230 to R235), and SERIALIZE and ENCODE (R236, R237). -/

namespace Sys2Proof.Machine

/-- `DELIM`, the ASCII comma (00_scope.md R6). -/
def comma : Byte := 0x2C
/-- The ASCII minus (44_encoder.md R231). -/
def minus : Byte := 0x2D
/-- The ASCII plus (45_decoder.md R265). -/
def plus : Byte := 0x2B

/-- The ASCII digit of `d < 10` (44_encoder.md R230). -/
def digitByte (d : Nat) : Byte := BitVec.ofNat 8 (0x30 + d)

/-- The last `fuel` decimal digits of `v` or fewer, with no leading zeros. -/
def decDigits : Nat → Nat → List Byte
  | 0, _ => []
  | fuel + 1, v => if v < 10 then [digitByte v] else decDigits fuel (v / 10) ++ [digitByte (v % 10)]

/-- `dec_u(v)` for `v <= 2^32 - 1`, which has at most 10 digits (44_encoder.md R230). -/
def decU (v : Nat) : List Byte := decDigits 10 v

/-- `dec_s(v)` for a 32-bit two's complement `v` (44_encoder.md R231). -/
def decS (v : Int) : List Byte := if 0 ≤ v then decU v.toNat else minus :: decU (-v).toNat

/-- `serialize(id, f0, …, f4)` (44_encoder.md R232). -/
def serializeSample (p : Sample) : List Byte :=
  decU p.id.toNat ++ comma :: decS p.f0.toInt ++ comma :: decS p.f1.toInt ++ comma :: decS p.f2.toInt
    ++ comma :: decS p.f3.toInt ++ comma :: decS p.f4.toInt

/-- Steps 1 and 2 of 44_encoder.md R234: the ciphertext of a sample. -/
def sampleCiphertext (c : Config.CipherChoice) (k : Key) (p : Sample) : List Byte := encryptBytes c k (serializeSample p)

/-- `encode(sample, K)`: the ciphertext, then its checksum (44_encoder.md R234, 30_encoding.md R95). -/
def encodeFrame (c : Config.CipherChoice) (k : Key) (p : Sample) : List Byte :=
  sampleCiphertext c k p ++ [checksum (sampleCiphertext c k p)]

/-- SERIALIZE (44_encoder.md R236). -/
def execSerialize (s : State) : Out := finish .ok (writeOut (serializeSample (sampleOf s)) s)

/-- ENCODE (44_encoder.md R237). -/
def execEncode (s : State) : Out :=
  withKey s
    (finish .ok
      (setCrc (checksum (sampleCiphertext s.cfg.cipher (keyOf s) (sampleOf s)))
        (writeOut (encodeFrame s.cfg.cipher (keyOf s) (sampleOf s)) s)))

end Sys2Proof.Machine
end

