-- ==== Sys2Proof/Machine/Decoder.lean ====
section
/-! DEFINITION. The packet decoder: splitting, integer literals, conversion, the receive pipeline (45_decoder.md R260 to R267), and PARSE and DECODE (R269, R270). -/

namespace Sys2Proof.Machine

/-- `MIN_FRAME` (00_scope.md R6). -/
def minFrame : Nat := 17

/-- `TOKEN_COUNT` (00_scope.md R6). -/
def tokenCount : Nat := 6

/-- `split(s, d)`: the maximal sub-strings between occurrences of `d`, some possibly empty (00_scope.md R11). -/
def splitBytes (d : Byte) : List Byte → List (List Byte)
  | [] => [[]]
  | b :: bs =>
    if b = d then [] :: splitBytes d bs
    else match splitBytes d bs with
      | [] => [[b]]
      | t :: ts => (b :: t) :: ts

/-- The value of an ASCII digit; `none` for any other byte (45_decoder.md R265). -/
def digitValue (b : Byte) : Option Nat := if 0x30 ≤ b.toNat ∧ b.toNat ≤ 0x39 then some (b.toNat - 0x30) else none

/-- The decimal value of digits read after a prefix of value `acc`. -/
def digitsFrom (acc : Nat) : List Byte → Option Nat
  | [] => some acc
  | b :: bs => match digitValue b with
    | none => none
    | some d => digitsFrom (10 * acc + d) bs

/-- The value of `digit+`: at least one digit (45_decoder.md R265). -/
def digitsValue : List Byte → Option Nat
  | [] => none
  | b :: bs => digitsFrom 0 (b :: bs)

/-- The value of a valid integer literal, an optional sign and then digits; `none` for any other token (45_decoder.md R265). -/
def literalValue : List Byte → Option Int
  | [] => none
  | b :: ds =>
    if b = plus then (digitsValue ds).map (fun n : Nat => (n : Int))
    else if b = minus then (digitsValue ds).map (fun n : Nat => -(n : Int))
    else (digitsValue (b :: ds)).map (fun n : Nat => (n : Int))

/-- A token as a 32-bit register value, when its literal value lies in `lo .. hi` (45_decoder.md R266). -/
def convertIn (lo hi : Int) (t : List Byte) : Option Word32 :=
  match literalValue t with
  | none => none
  | some v => if lo ≤ v ∧ v ≤ hi then some (BitVec.ofInt 32 v) else none

/-- Token 0, the `packet_id` (45_decoder.md R266). -/
def convertId (t : List Byte) : Option Word32 := convertIn 0 (2 ^ 32 - 1) t

/-- Tokens 1 to 5, the fields (45_decoder.md R266). -/
def convertField (t : List Byte) : Option Word32 := convertIn (-2 ^ 31) (2 ^ 31 - 1) t

/-- The Convert stage: all six tokens, or none (45_decoder.md R266). -/
def convertTokens : List (List Byte) → Option Sample
  | [t0, t1, t2, t3, t4, t5] =>
    match convertId t0, convertField t1, convertField t2, convertField t3, convertField t4, convertField t5 with
    | some id, some f0, some f1, some f2, some f3, some f4 => some ⟨id, f0, f1, f2, f3, f4⟩
    | _, _, _, _, _, _ => none
  | _ => none

/-- The Parse and Convert stages on a plaintext (45_decoder.md R264, R266). -/
def parsePayload (p : List Byte) : Except ResultCode Sample :=
  let t := splitBytes comma p
  if t.length ≠ tokenCount then .error .formatError
  else match convertTokens t with
    | none => .error .valueError
    | some x => .ok x

/-- The Decrypt stage: deciphers, and takes only 7-bit ASCII (45_decoder.md R263). -/
def decryptStage (c : Config.CipherChoice) (k : Key) (q : List Byte) : Option (List Byte) :=
  match decryptBytes c k q with
  | none => none
  | some r => if r.any (fun b => decide (0x80 ≤ b.toNat)) then none else some r

/-- PARSE (45_decoder.md R269). -/
def execParse (s : State) : Out :=
  withInput s
    (match parsePayload (inBytes s) with
     | .error e => finish e s
     | .ok x => finish .ok (writeSample x s))

/-- A DECODE that ends with a code other than OK also clears INTEGRITY (45_decoder.md R270). -/
def decodeFail (c : ResultCode) (s : State) : Out := finish c (setIntegrity false s)

/-- Decrypt, Parse, Convert and Persist, on the ciphertext `q` (45_decoder.md R263 to R267). -/
def decodeCiphertext (q : List Byte) (s : State) : Out :=
  match decryptStage s.cfg.cipher (keyOf s) q with
  | none => decodeFail .decryptFailure s
  | some p => match parsePayload p with
    | .error e => decodeFail e s
    | .ok x => finish .ok (setIntegrity true (writeSample x s))

/-- Integrity and the stages after it, on the frame `C || rx`: CRC and RXCRC are written whatever the outcome (45_decoder.md R262). -/
def decodeFrame (f : List Byte) (s : State) : Out :=
  let q := f.take (f.length - 1)
  let rx := f.getD (f.length - 1) 0
  let s1 := setRxcrc rx (setCrc (checksum q) s)
  if rx ≠ checksum q then decodeFail .crcMismatch s1 else decodeCiphertext q s1

/-- DECODE (45_decoder.md R270). -/
def execDecode (s : State) : Out :=
  if !s.keyValid then decodeFail .noKey s
  else if bufSize < s.inLen.toNat then decodeFail .lengthError s
  else if s.inLen.toNat < minFrame then decodeFail .shortFrame s
  else decodeFrame (inBytes s) s

end Sys2Proof.Machine
end

