-- ==== Sys2Proof/Machine/Engine.lean ====
section
/-! DEFINITION. The two commands that belong to no unit: NOP and the illegal opcodes (40_command_engine.md R125, R126). -/

namespace Sys2Proof.Machine

/-- NOP (40_command_engine.md R125). -/
def execNop (s : State) : Out := finish .ok s

/-- An opcode in `0x0B..0xFF`; which one makes no difference (40_command_engine.md R126). -/
def execIllegal (_op : Byte) (s : State) : Out := finish .illegalCommand s

end Sys2Proof.Machine
end

