-- ==== Sys2Proof/Machine/Dispatch.lean ====
section
/-! DEFINITION. One arm for each instruction (40_command_engine.md R131, 20_memory.md R63, R64). For a command, `exec` is the engine's completion step. -/

namespace Sys2Proof.Machine

def exec (i : Instr) (s : State) : Host.Outcome State Fault Refusal :=
  match i with
  | .nop => Sys2Proof.Machine.execNop s
  | .crc => Sys2Proof.Machine.execCrc s
  | .deriveKey => Sys2Proof.Machine.execDeriveKey s
  | .blockEnc => Sys2Proof.Machine.execBlockEnc s
  | .blockDec => Sys2Proof.Machine.execBlockDec s
  | .encrypt => Sys2Proof.Machine.execEncrypt s
  | .decrypt => Sys2Proof.Machine.execDecrypt s
  | .serialize => Sys2Proof.Machine.execSerialize s
  | .encode => Sys2Proof.Machine.execEncode s
  | .parse => Sys2Proof.Machine.execParse s
  | .decode => Sys2Proof.Machine.execDecode s
  | .illegal op => Sys2Proof.Machine.execIllegal op s
  | .busWr a v => Sys2Proof.Machine.execBusWr a v s
  | .busRd a => Sys2Proof.Machine.execBusRd a s

end Sys2Proof.Machine
end

