-- ==== Sys2Proof/Machine/Agents.lean ====
section
/-! DEFINITION. The moves of the agents (10_state.md R20): the engine runs the latched command, the host's word is fetched and decoded, the platform resets. `Step.lean` only calls them. -/

namespace Sys2Proof.Machine

/-- The engine's turn: its completion step when BUSY = 1, and no step otherwise (40_command_engine.md R121). -/
def engineMove (s : State) : Out := if s.busy then exec (decodeC8 s.cmd) s else .next s

/-- A host transaction given by its word (30_encoding.md R90, R93). -/
def hostMove (w : Nat) (s : State) : Out :=
  match decode .tw w with
  | .ok i => exec i s
  | .error e => .refused (.notATransaction e)

/-- One move, once it is off the agenda. -/
def move (e : Event) (s : State) : Out :=
  match e with
  | .host w => hostMove w s
  | .engine => engineMove s
  | .reset => .next (platformReset s)

/-- The next move: the agenda's first, and the engine's turn when the agenda is empty, so that an issued command always completes (weak fairness, 40_command_engine.md R122; log 1). -/
def nextMove (s : State) : Out :=
  match s.agenda with
  | [] => engineMove s
  | e :: rest => move e (setAgenda rest s)

/-- `s` with a command byte latched as by an issue (40_command_engine.md R120), and the engine's turn next. -/
def placeCommand (v : Byte) (s : State) : State := setAgenda (.engine :: s.agenda) (issue v s)

/-- `s` with a transaction word as the host's next move. -/
def placeTransaction (w : Nat) (s : State) : State := setAgenda (.host w :: s.agenda) s

end Sys2Proof.Machine
end

