-- ==== Sys2Proof/Machine/Step.lean ====
section
/-! DEFINITION. The step of the machine, and a word placed where the next step fetches its instruction. -/

namespace Sys2Proof.Machine

/-- One step: the next move of the interleaving (20_memory.md R72). -/
def step (s : State) : Host.Outcome State Fault Refusal := nextMove s

/-- `s` with an opcode-table word of `nbits` bits placed where `step` takes its next instruction: a command byte as the pending command, a transaction word as the host's next transaction (log 11). -/
def State.withFetchWord (s : State) (nbits w : Nat) : State :=
  match formatOfWidth nbits with
  | .c8 => placeCommand (BitVec.ofNat 8 w) s
  | .tw => placeTransaction w s

end Sys2Proof.Machine
end

