-- ==== Sys2Proof/Safety.lean ====
section
/-! DEFINITION. The words claims are stated in: address ranges as numbers, how a command ends, what is stored, and the invariant of the machine. They are written from the spec's own lists and do not use the model's address map. -/

namespace Sys2Proof.Machine

/-! ### Address ranges (20_memory.md R61) -/

/-- SAMPLE_ID and SAMPLE_F0..F4, `0x010`-`0x027`. -/
abbrev SampleAddr (a : Nat) : Prop := 0x010 ≤ a ∧ a < 0x028
/-- KEY, `0x030`-`0x03F`. -/
abbrev KeyAddr (a : Nat) : Prop := 0x030 ≤ a ∧ a < 0x040
/-- PASS, `0x040`-`0x04F`. -/
abbrev PassAddr (a : Nat) : Prop := 0x040 ≤ a ∧ a < 0x050
/-- IN, `0x100`-`0x17F`. -/
abbrev InAddr (a : Nat) : Prop := 0x100 ≤ a ∧ a < 0x180
/-- OUT, `0x200`-`0x27F`. -/
abbrev OutAddr (a : Nat) : Prop := 0x200 ≤ a ∧ a < 0x280
/-- The addresses of data bytes, which may be undefined (10_state.md R45). -/
abbrev DataAddr (a : Nat) : Prop := SampleAddr a ∨ KeyAddr a ∨ PassAddr a ∨ InAddr a ∨ OutAddr a
/-- The addresses the map calls reserved. -/
abbrev ReservedAddr (a : Nat) : Prop :=
  (0x008 ≤ a ∧ a < 0x010) ∨ (0x028 ≤ a ∧ a < 0x030) ∨ (0x050 ≤ a ∧ a < 0x100) ∨ (0x180 ≤ a ∧ a < 0x200) ∨ (0x280 ≤ a ∧ a < 0x400)

/-- `MayWrite(op)` of 20_memory.md R66, written out by opcode number. -/
abbrev MayWriteAddr (op a : Nat) : Prop :=
  a = 0x002 ∨ (op = 0x01 ∧ a = 0x003) ∨ (op = 0x02 ∧ KeyAddr a) ∨ (0x03 ≤ op ∧ op ≤ 0x08 ∧ (OutAddr a ∨ a = 0x006))
    ∨ (op = 0x08 ∧ a = 0x003) ∨ (op = 0x09 ∧ SampleAddr a) ∨ (op = 0x0A ∧ (SampleAddr a ∨ a = 0x003 ∨ a = 0x004))

/-- The opcode bytes of `NEEDS_KEY` (40_command_engine.md R127), as instructions. -/
def needsKey : List Instr := [.blockEnc, .blockDec, .encrypt, .decrypt, .encode, .decode]

/-! ### What is read and stored -/

/-- `v` is the value held at the address `a`, other than STATUS, by the list of 20_memory.md R63. An undefined byte puts no condition on `v` (10_state.md R45). -/
def ReadsHeldByte (s : State) (a : Nat) (v : Byte) : Prop :=
  (a = 0x000 → v = s.cmd) ∧ (a = 0x002 → v = s.result) ∧ (a = 0x003 → v = s.crc) ∧ (a = 0x004 → v = s.rxcrc)
    ∧ (a = 0x005 → v = s.inLen) ∧ (a = 0x006 → v = s.outLen) ∧ (a = 0x007 → v = s.passLen)
    ∧ (DataAddr a → ∀ b, Memory.read s.mem a = some b → v = b) ∧ (ReservedAddr a → v = 0x00)

/-- The bytes `m'` holds are those of `m`, except that `bs` stands at `a` and the addresses after it. -/
def StoredAt (m m' : Memory) (a : Nat) (bs : List Byte) : Prop :=
  ∀ x, Memory.read m' x = if a ≤ x ∧ x < a + bs.length then bs[x - a]? else Memory.read m x

/-! ### How a command ends -/

/-- `s` with RESULT, BUSY and DONE as the completion step leaves them (40_command_engine.md R121), and nothing else changed but the number of the next free draw. -/
def ended (code : Byte) (s : State) : State := { s with result := code, busy := false, done := true, draw := s.draw + 1 }

/-- From `s` a command ended in `t` with OK, with `bs` in `OUT[0..m)` and `OUT_LEN = m`; every other register and every other byte of memory is as before. -/
def EndsWithOutput (s t : State) (bs : List Byte) : Prop :=
  t = { ended 0x00 s with outLen := BitVec.ofNat 8 bs.length, mem := t.mem } ∧ StoredAt s.mem t.mem 0x200 bs

/-- From `s` a command ended in `t` with OK, and the sample registers hold `x`; every other register and every other byte of memory is as before. -/
def EndsWithSample (s t : State) (x : Sample) : Prop :=
  t = { ended 0x00 s with mem := t.mem } ∧ StoredAt s.mem t.mem 0x010 (sampleBytes x)

/-! ### The invariant -/

/-- What holds of the machine's state at all times. -/
structure Inv (s : State) : Prop where
  /-- the cells of memory are in their one canonical form, all of them data bytes -/
  memory_canonical : Memory.wf s.mem = true
  /-- RESULT is one of the codes `0x00` to `0x09` (10_state.md R32, 60_exceptions.md R300) -/
  result_legal : s.result.toNat ≤ 9
  /-- OUT_LEN is never greater than 128 (10_state.md R36) -/
  out_len_bounded : s.outLen.toNat ≤ 128
  /-- the valid output `OUT[0..OUT_LEN)` (10_state.md R43) holds defined bytes -/
  out_defined : ∀ i, i < s.outLen.toNat → (Memory.read s.mem (0x200 + i)).isSome = true
  /-- the bytes of KEY are undefined while KEY_VALID = 0 (10_state.md R40), and defined while it is 1 -/
  key_defined : ∀ i, i < 16 → (Memory.read s.mem (0x030 + i)).isSome = s.keyValid
  /-- an issue clears DONE and a completion clears BUSY (40_command_engine.md R120, R121) -/
  busy_not_done : s.busy = true → s.done = false
  /-- only a DECODE with a key sets INTEGRITY (10_state.md R30, 40_command_engine.md R127) -/
  integrity_has_key : s.integrity = true → s.keyValid = true
  /-- DONE = 0 with BUSY = 0 means no command has completed since reset (10_state.md R27) -/
  nothing_completed : s.busy = false → s.done = false →
    s.result = 0x00 ∧ s.crc = 0x00 ∧ s.rxcrc = 0x00 ∧ s.outLen = 0x00 ∧ s.keyValid = false ∧ s.integrity = false

/-- The agenda's first move is a reset by the platform. -/
def resetIsNext (s : State) : Bool :=
  match s.agenda with
  | .reset :: _ => true
  | .engine :: _ => false
  | .host _ :: _ => false
  | [] => false

/-- A step that stops: on this machine, only at a host word that is no transaction (60_exceptions.md R301, 30_encoding.md R93). -/
def Stops (s : State) : Prop := ∃ why, step s = .refused (.notATransaction why)

end Sys2Proof.Machine
end

