-- ==== Sys2Proof/Certificates/Slice0/Obligations.lean ====
section
/-! DEFINITION. The statements for the provers: what the numbered rules of spec/ say of this machine. -/

open Sys2Proof Sys2Proof.Machine

/-! ### Encodings (30_encoding.md) -/

/-- Decoding the word of a well-formed instruction gives the instruction back, every operand at every value (30_encoding.md R90, R92, R93). -/
def Obligations.DecodeOfEncodeIsTheInstruction : Prop :=
  ∀ i : Instr, i.wellFormed = true → decode i.format (encode i) = .ok i

/-- A word that decodes is the word of the well-formed instruction it decodes to, in that format: no bit of it is ignored, so no two words stand for one instruction (30_encoding.md R90, R92). -/
def Obligations.DecodedWordIsTheEncodingOfItsInstruction : Prop :=
  ∀ (f : Format) (w : Nat) (i : Instr), decode f w = .ok i → i.wellFormed = true ∧ i.format = f ∧ encode i = w

/-- The opcode map of 30_encoding.md R92, byte by byte. -/
def Obligations.OpcodeMapDecodes : Prop :=
  decode .c8 0x00 = .ok .nop ∧ decode .c8 0x01 = .ok .crc ∧ decode .c8 0x02 = .ok .deriveKey ∧ decode .c8 0x03 = .ok .blockEnc
    ∧ decode .c8 0x04 = .ok .blockDec ∧ decode .c8 0x05 = .ok .encrypt ∧ decode .c8 0x06 = .ok .decrypt
    ∧ decode .c8 0x07 = .ok .serialize ∧ decode .c8 0x08 = .ok .encode ∧ decode .c8 0x09 = .ok .parse
    ∧ decode .c8 0x0A = .ok .decode ∧ ∀ op : Byte, 0x0B ≤ op.toNat → decode .c8 op.toNat = .ok (.illegal op)

/-- The encoding examples of 30_encoding.md R100. -/
def Obligations.TransactionWordExamplesDecode : Prop :=
  decode .tw 0x40001 = .ok (.busWr 0x000 0x01) ∧ decode .tw 0x50031 = .ok (.busWr 0x100 0x31)
    ∧ decode .tw 0x40509 = .ok (.busWr 0x005 0x09) ∧ decode .tw 0x00300 = .ok (.busRd 0x003)
    ∧ decode .tw 0x40104 = .ok (.busWr 0x001 0x04)

/-- The transaction word by its numbers: `0x40000 | a<<8 | v` writes, `a<<8` reads, a read word with `V != 0` is refused, and so is a word of more than 19 bits (30_encoding.md R90, R93, R99). -/
def Obligations.TransactionWordFields : Prop :=
  (∀ (a : Addr) (v : Byte), decode .tw (0x40000 + a.toNat * 256 + v.toNat) = .ok (.busWr a v))
    ∧ (∀ a : Addr, decode .tw (a.toNat * 256) = .ok (.busRd a))
    ∧ (∀ (a : Addr) (v : Byte), v ≠ 0 → decode .tw (a.toNat * 256 + v.toNat) = .error .readCarriesData)
    ∧ ∀ w : Nat, 0x80000 ≤ w → decode .tw w = .error .wordTooWide

/-! ### Steps -/

/-- The host's move runs the transaction its word decodes to, with the move taken off the agenda (20_memory.md R72); a word that stands for no transaction is refused by name, and no state results. That the coming moves stand in an agenda is the model's choice (log 1, DESIGN CHOICE). That the step at such a word stops is the model's reading (log 9, DEDUCED): 30_encoding.md R93 says only that a transcriber refuses the word. -/
def Obligations.HostMoveRunsTheDecodedTransaction : Prop :=
  ∀ (s : State) (w : Nat) (rest : List Event), s.agenda = .host w :: rest →
    (∀ i, decode .tw w = .ok i → step s = exec i { s with agenda := rest })
      ∧ ∀ e, decode .tw w = .error e → step s = .refused (.notATransaction e)

/-- While BUSY = 1 the engine's step runs the latched command (40_command_engine.md R121). That the engine has the turn at its move on the agenda, and also when the agenda is empty, is the model's choice (log 1, DESIGN CHOICE). -/
def Obligations.EngineMoveRunsTheLatchedCommand : Prop :=
  ∀ (s : State) (i : Instr), s.busy = true → decode .c8 s.cmd.toNat = .ok i →
    (s.agenda = [] → step s = exec i s) ∧ ∀ rest, s.agenda = .engine :: rest → step s = exec i { s with agenda := rest }

/-- While BUSY = 0 the engine has no step: its turn changes nothing, and with an empty agenda the machine waits (40_command_engine.md R121, 70_reset_and_hazards.md R331). That a step then answers the state itself is the model's choice (log 2), and so is the agenda (log 1). -/
def Obligations.IdleEngineHasNoStep : Prop :=
  ∀ s : State, s.busy = false →
    (s.agenda = [] → step s = .next s) ∧ ∀ rest, s.agenda = .engine :: rest → step s = .next { s with agenda := rest }

/-- A word placed by `withFetchWord` is the next instruction to run: a command byte latched as by an issue, or a transaction word as the host's next move (the model's choice of place: log 11). -/
def Obligations.PlacedWordRunsNext : Prop :=
  (∀ (s : State) (w : Nat) (i : Instr), decodeTableWord 8 w = some i →
      step (s.withFetchWord 8 w) = exec i { s with cmd := BitVec.ofNat 8 w, busy := true, done := false })
    ∧ ∀ (s : State) (nbits w : Nat) (i : Instr), 8 < nbits → decodeTableWord nbits w = some i →
      step (s.withFetchWord nbits w) = exec i s

/-- The two schedules of 70_reset_and_hazards.md R335 for a write of IN_LEN that races a pending NOP (program P3 of 95_test_vectors.md): dropped with ERR_BUSY = 1, or applied after the completion. Both are runs of the machine, for two agendas; that an agenda says who moves next is the model's choice (log 1). -/
def Obligations.WriteRacingACompletionHasBothOutcomes : Prop :=
  ∀ (s : State) (v : Byte), s.busy = true → s.cmd = 0x00 →
    core.run 2 { s with agenda := [.host (0x40500 + v.toNat), .engine] }
        = .next { s with agenda := [], errBusy := true, result := 0x00, busy := false, done := true, draw := s.draw + 1 }
      ∧ core.run 2 { s with agenda := [.engine, .host (0x40500 + v.toNat)] }
        = .next { s with agenda := [], inLen := v, result := 0x00, busy := false, done := true, draw := s.draw + 1 }

/-! ### Reset (70_reset_and_hazards.md) -/

/-- The state after reset, register by register (70_reset_and_hazards.md R330). The values of the model's own fields are log 4 and are not stated. -/
def Obligations.ResetValues : Prop :=
  State.reset.cmd = 0x00 ∧ statusOf State.reset = 0x00 ∧ State.reset.busy = false ∧ State.reset.done = false
    ∧ State.reset.errBusy = false ∧ State.reset.keyValid = false ∧ State.reset.integrity = false
    ∧ State.reset.result = 0x00 ∧ State.reset.crc = 0x00 ∧ State.reset.rxcrc = 0x00 ∧ State.reset.inLen = 0x00
    ∧ State.reset.outLen = 0x00 ∧ State.reset.passLen = 0x00 ∧ ∀ a, Memory.read State.reset.mem a = none

/-- A reset by the platform, at any time: every register and byte as after reset, a command in flight abandoned with none of its writes, and the key lock released, so that the next DERIVE_KEY completes with OK (70_reset_and_hazards.md R330). What stays (the instance, the moves to come, the host's log, the draw number) is the model's choice: log 10. -/
def Obligations.PlatformResetAbandonsTheCommandAndUnlocksTheKey : Prop :=
  ∀ (s : State) (rest : List Event), s.agenda = .reset :: rest →
    ∃ t u, step s = .next t ∧ t = { State.reset with cfg := s.cfg, agenda := rest, readLog := s.readLog, draw := s.draw }
      ∧ t.busy = false ∧ t.done = false ∧ t.result = 0x00 ∧ (∀ a, Memory.read t.mem a = none)
      ∧ exec .deriveKey t = .next u ∧ u.result = 0x00 ∧ u.keyValid = true

/-! ### The bus (20_memory.md) -/

/-- A bus read while BUSY = 0: the host gets the byte held at the address, STATUS as `INTEGRITY<<4 | KEY_VALID<<3 | ERR_BUSY<<2 | DONE<<1 | BUSY`, a reserved address as `0x00`; no codec state changes (20_memory.md R62, R63, R67). An undefined byte may read as anything. -/
def Obligations.BusReadWhileIdle : Prop :=
  ∀ (s : State) (a : Addr), s.busy = false →
    ∃ v, exec (.busRd a) s = .next { s with readLog := (a, v) :: s.readLog, draw := s.draw + 1 }
      ∧ ReadsHeldByte s a.toNat v
      ∧ (a.toNat = 0x001 → v.toNat = 16 * s.integrity.toNat + 8 * s.keyValid.toNat + 4 * s.errBusy.toNat + 2 * s.done.toNat)

/-- A bus read while BUSY = 1 completes too, with no effect on the codec; outside `MayWrite` it gives the byte held; STATUS gives the true BUSY, DONE, ERR_BUSY and reserved bits, the true KEY_VALID unless DERIVE_KEY is pending and the true INTEGRITY unless DECODE is (20_memory.md R66). Inside `MayWrite` it may give anything. -/
def Obligations.BusReadWhileBusy : Prop :=
  ∀ (s : State) (a : Addr), s.busy = true →
    ∃ v, exec (.busRd a) s = .next { s with readLog := (a, v) :: s.readLog, draw := s.draw + 1 }
      ∧ (¬ MayWriteAddr s.cmd.toNat a.toNat → ReadsHeldByte s a.toNat v)
      ∧ (a.toNat = 0x001 →
          v.getLsbD 0 = true ∧ v.getLsbD 1 = s.done ∧ v.getLsbD 2 = s.errBusy ∧ (s.cmd ≠ 0x02 → v.getLsbD 3 = s.keyValid)
            ∧ (s.cmd ≠ 0x0A → v.getLsbD 4 = s.integrity) ∧ v.toNat < 32)

/-- Two reads of one address with nothing between them give the host the same byte, wherever neither is a free draw (20_memory.md R67). -/
def Obligations.ReadsAreIdempotent : Prop :=
  ∀ (s t u : State) (a : Addr), exec (.busRd a) s = .next t → exec (.busRd a) t = .next u →
    (s.busy = true → ¬ MayWriteAddr s.cmd.toNat a.toNat ∧ (a.toNat = 0x001 → s.cmd ≠ 0x02 ∧ s.cmd ≠ 0x0A)) →
    (DataAddr a.toNat → (Memory.read s.mem a.toNat).isSome = true) →
    ∃ v, u.readLog = (a, v) :: (a, v) :: s.readLog

/-- A bus write, by address (20_memory.md R64, R65; 10_state.md R28; 40_command_engine.md R120): STATUS takes only the write-1-to-clear of bit 2, at any time; any other write while BUSY = 1 only sets ERR_BUSY; while BUSY = 0, CMD issues, IN_LEN and PASS_LEN take the byte, a byte of SAMPLE, PASS or IN becomes the byte, and every other address ignores it. -/
def Obligations.BusWriteByAddress : Prop :=
  ∀ (s : State) (a : Addr) (v : Byte),
    (a.toNat = 0x001 → exec (.busWr a v) s = .next { s with errBusy := if v.getLsbD 2 then false else s.errBusy })
      ∧ (a.toNat ≠ 0x001 → s.busy = true → exec (.busWr a v) s = .next { s with errBusy := true })
      ∧ (s.busy = false →
          (a.toNat = 0x000 → exec (.busWr a v) s = .next { s with cmd := v, busy := true, done := false })
            ∧ (a.toNat = 0x005 → exec (.busWr a v) s = .next { s with inLen := v })
            ∧ (a.toNat = 0x007 → exec (.busWr a v) s = .next { s with passLen := v })
            ∧ (SampleAddr a.toNat ∨ PassAddr a.toNat ∨ InAddr a.toNat →
                ∃ t, exec (.busWr a v) s = .next t ∧ t = { s with mem := t.mem } ∧ StoredAt s.mem t.mem a.toNat [v])
            ∧ (a.toNat = 0x002 ∨ a.toNat = 0x003 ∨ a.toNat = 0x004 ∨ a.toNat = 0x006 ∨ KeyAddr a.toNat ∨ OutAddr a.toNat
                  ∨ ReservedAddr a.toNat →
                exec (.busWr a v) s = .next s))

/-- ERR_BUSY: reset leaves it 0; a host write other than to STATUS sets it while BUSY = 1, a write to STATUS with bit 2 = 1 clears it at any time, and nothing else, no command among it, changes it (10_state.md R28). -/
def Obligations.ErrBusyIsSticky : Prop :=
  State.reset.errBusy = false ∧
    ∀ (i : Instr) (s t : State), exec i s = .next t →
      (∀ a v, i = .busWr a v →
          t.errBusy = if a.toNat = 0x001 then (if v.getLsbD 2 then false else s.errBusy) else (s.busy || s.errBusy))
        ∧ ((∀ a v, i ≠ .busWr a v) → t.errBusy = s.errBusy)

/-! ### Every command (40_command_engine.md, 60_exceptions.md) -/

/-- NOP, opcode `0x00` (40_command_engine.md R125): it completes with OK, and nothing else changes. -/
def Obligations.NopCompletesWithOk : Prop :=
  decode .c8 0x00 = .ok .nop ∧ ∀ s : State, exec .nop s = .next (ended 0x00 s)

/-- An illegal opcode completes with IllegalCommand and changes nothing else; CMD still holds it (40_command_engine.md R126). -/
def Obligations.IllegalOpcodeCompletesWithIllegalCommand : Prop :=
  ∀ (op : Byte) (s : State), 0x0B ≤ op.toNat → decode .c8 op.toNat = .ok (.illegal op) ∧ exec (.illegal op) s = .next (ended 0x09 s)

/-- Every command, in every state, completes: BUSY = 0, DONE = 1, one result code of `0x00` to `0x09`, and CMD still holds the opcode (40_command_engine.md R121, 60_exceptions.md R300, R301). -/
def Obligations.EveryCommandCompletes : Prop :=
  ∀ (i : Instr) (s : State), i.format = .c8 →
    ∃ t, exec i s = .next t ∧ t.busy = false ∧ t.done = true ∧ t.result.toNat ≤ 9 ∧ t.cmd = s.cmd

/-- `NEEDS_KEY` (40_command_engine.md R127): while KEY_VALID = 0 these commands complete with NoKey and touch nothing else, except that DECODE clears INTEGRITY; the other commands never answer NoKey. -/
def Obligations.KeyCommandsNeedAKey : Prop :=
  needsKey.map encode = [0x03, 0x04, 0x05, 0x06, 0x08, 0x0A] ∧ ∀ (i : Instr) (s : State), i.format = .c8 →
    (i ∈ needsKey → s.keyValid = false →
        exec i s = .next { ended 0x06 s with integrity := if i = .decode then false else s.integrity })
      ∧ (i ∉ needsKey → ∀ t, exec i s = .next t → t.result ≠ 0x06)

/-- All-or-nothing (60_exceptions.md R304, 40_command_engine.md R124): a command that completes with a code other than OK changes RESULT, BUSY and DONE; INTEGRITY <- 0 if it is DECODE; and CRC and RXCRC if it is DECODE and reached Integrity. Every other register and every byte of memory is as before. -/
def Obligations.FailedCommandChangesOnlyTheListedRegisters : Prop :=
  ∀ (i : Instr) (s t : State), i.format = .c8 → exec i s = .next t → t.result ≠ 0x00 →
    t = { ended t.result s with
            integrity := if i = .decode then false else s.integrity
            crc := t.crc
            rxcrc := t.rxcrc }
      ∧ (¬ (i = .decode ∧ s.keyValid = true ∧ 17 ≤ s.inLen.toNat ∧ s.inLen.toNat ≤ 128) → t.crc = s.crc ∧ t.rxcrc = s.rxcrc)

/-- No command changes CMD, ERR_BUSY, IN_LEN, PASS_LEN, or a byte of PASS or IN; nor the instance, the moves to come or what the host has read (10_state.md R24, R28, R35, R37, R41, R42). -/
def Obligations.CommandsLeaveTheHostsRegistersAlone : Prop :=
  ∀ (i : Instr) (s t : State), i.format = .c8 → exec i s = .next t →
    t.cmd = s.cmd ∧ t.errBusy = s.errBusy ∧ t.inLen = s.inLen ∧ t.passLen = s.passLen ∧ t.cfg = s.cfg
      ∧ t.agenda = s.agenda ∧ t.readLog = s.readLog
      ∧ ∀ a, PassAddr a ∨ InAddr a → Memory.read t.mem a = Memory.read s.mem a

/-- A command writes, outside STATUS, only addresses of its `MayWrite` set: every other address holds the same value after it, an undefined byte staying undefined (20_memory.md R66, R78). -/
def Obligations.CommandsWriteOnlyMayWrite : Prop :=
  ∀ (i : Instr) (s t : State) (a : Nat), i.wellFormed = true → i.format = .c8 → exec i s = .next t →
    a ≠ 0x001 → ¬ MayWriteAddr (encode i) a → held t a = held s a

/-! ### Operands (10_state.md, 20_memory.md, 40_command_engine.md) -/

/-- The input view: byte `i` of `InBytes` is the defined byte at `0x100 + i`, and there are IN_LEN of them (40_command_engine.md R128). Nothing is said of a byte that is undefined (10_state.md R45). -/
def Obligations.InputViewHoldsTheDefinedBytes : Prop :=
  ∀ s : State, (inBytes s).length = s.inLen.toNat
    ∧ ∀ i b, i < s.inLen.toNat → Memory.read s.mem (0x100 + i) = some b → (inBytes s)[i]? = some b

/-- The sample registers: SAMPLE_ID is its four bytes little-endian and unsigned, SAMPLE_Fi is at `0x014 + 4i` and two's complement (10_state.md R38, R39; 20_memory.md R69). -/
def Obligations.SampleRegistersAreLittleEndian : Prop :=
  ∀ s : State,
    let u := fun a => (byteAt s a).toNat + 256 * (byteAt s (a + 1)).toNat + 65536 * (byteAt s (a + 2)).toNat + 16777216 * (byteAt s (a + 3)).toNat
    let sext := fun n : Nat => if n < 2 ^ 31 then (n : Int) else (n : Int) - 2 ^ 32
    (sampleOf s).id.toNat = u 0x010 ∧ (sampleOf s).f0.toInt = sext (u 0x014) ∧ (sampleOf s).f1.toInt = sext (u 0x018)
      ∧ (sampleOf s).f2.toInt = sext (u 0x01C) ∧ (sampleOf s).f3.toInt = sext (u 0x020) ∧ (sampleOf s).f4.toInt = sext (u 0x024)

/-! ### The checksum unit (41_checksum.md) -/

/-- CRC (41_checksum.md R145). -/
def Obligations.CrcCommand : Prop :=
  Sys2Proof.decode .c8 0x01 = .ok .crc ∧ ∀ s : State,
    (128 < s.inLen.toNat → exec .crc s = .next (ended 0x08 s))
      ∧ (s.inLen.toNat ≤ 128 → exec .crc s = .next { ended 0x00 s with crc := checksum (inBytes s) })

/-- A byte as a polynomial over GF(2), bit `i` the coefficient of `x^i`. -/
noncomputable def Sys2Proof.Machine.bytePoly (b : Byte) : Polynomial (ZMod 2) :=
  ((List.range 8).map (fun i => if b.getLsbD i then Polynomial.X ^ i else 0)).sum

/-- A byte string as a polynomial, `s[0]` bit 7 the highest-order coefficient (41_checksum.md R141). -/
noncomputable def Sys2Proof.Machine.stringPoly (bs : List Byte) : Polynomial (ZMod 2) :=
  bs.foldl (fun p b => p * Polynomial.X ^ 8 + bytePoly b) 0

/-- `checksum(s)` is the remainder of `M(x) * x^8` modulo `G(x) = x^8 + x^2 + x + 1` over GF(2): of degree below 8, and equal to it up to a multiple of `G` (41_checksum.md R141). The rule marks the polynomial reading as general knowledge: log 14, PRESUMED. -/
def Obligations.ChecksumIsThePolynomialRemainder : Prop :=
  ∀ bs : List Byte,
    (bytePoly (checksum bs)).degree < 8
      ∧ ∃ q : Polynomial (ZMod 2),
          stringPoly bs * Polynomial.X ^ 8
            = q * (Polynomial.X ^ 8 + Polynomial.X ^ 2 + Polynomial.X + 1) + bytePoly (checksum bs)

/-- The four properties of 41_checksum.md R143: a flip of any one bit of a non-empty string changes the checksum; it is linear on strings of equal length; appending it gives 0; leading zero bytes do not matter. -/
def Obligations.ChecksumProperties : Prop :=
  (∀ (bs : List Byte) (i j : Nat), i < bs.length → j < 8 → checksum (bs.modify i (fun b => b ^^^ (1#8 <<< j))) ≠ checksum bs)
    ∧ (∀ xs ys : List Byte, xs.length = ys.length →
        checksum (List.zipWith (fun x y => x ^^^ y) xs ys) = checksum xs ^^^ checksum ys)
    ∧ (∀ bs : List Byte, checksum (bs ++ [checksum bs]) = 0x00)
    ∧ ∀ (n : Nat) (bs : List Byte), checksum (List.replicate n 0x00 ++ bs) = checksum bs

/-! ### The block cipher core (42_cipher.md, 43_cipher_aes128_reference.md) -/

/-- The laws of CIPHER (42_cipher.md R160), for the open cipher and for AES-128 (43_cipher_aes128_reference.md R210), for every key and block. For the open cipher the laws hold by the model's choice to hold CIPHER as a permutation of the blocks for each key (log 6, DESIGN CHOICE); for AES-128, whose tables are general knowledge (log 6, PRESUMED), they are a fact about the rounds. -/
def Obligations.CipherInverseLaws : Prop :=
  ∀ (c : Config.CipherChoice) (k : Key) (b : Block), cipherD c k (cipherE c k b) = b ∧ cipherE c k (cipherD c k b) = b

/-- The known answers of 43_cipher_aes128_reference.md R211. -/
def Obligations.AesKnownAnswers : Prop :=
  aesCipher #v[0x00, 0x01, 0x02, 0x03, 0x04, 0x05, 0x06, 0x07, 0x08, 0x09, 0x0A, 0x0B, 0x0C, 0x0D, 0x0E, 0x0F]
      #v[0x00, 0x11, 0x22, 0x33, 0x44, 0x55, 0x66, 0x77, 0x88, 0x99, 0xAA, 0xBB, 0xCC, 0xDD, 0xEE, 0xFF]
      = #v[0x69, 0xC4, 0xE0, 0xD8, 0x6A, 0x7B, 0x04, 0x30, 0xD8, 0xCD, 0xB7, 0x80, 0x70, 0xB4, 0xC5, 0x5A]
    ∧ aesCipher #v[0x2B, 0x7E, 0x15, 0x16, 0x28, 0xAE, 0xD2, 0xA6, 0xAB, 0xF7, 0x15, 0x88, 0x09, 0xCF, 0x4F, 0x3C]
      #v[0x32, 0x43, 0xF6, 0xA8, 0x88, 0x5A, 0x30, 0x8D, 0x31, 0x31, 0x98, 0xA2, 0xE0, 0x37, 0x07, 0x34]
      = #v[0x39, 0x25, 0x84, 0x1D, 0x02, 0xDC, 0x09, 0xFB, 0xDC, 0x11, 0x85, 0x97, 0x19, 0x6A, 0x0B, 0x32]

/-- Padding (42_cipher.md R162): `pad(p)` is `p` and then `k` bytes of value `k`, with `1 <= k <= 16`, of length `16 * (floor(len(p) / 16) + 1)`. -/
def Obligations.PaddingRule : Prop :=
  ∀ p : List Byte, (pad p).length = 16 * (p.length / 16 + 1) ∧ p.length < (pad p).length
    ∧ ∃ k, 1 ≤ k ∧ k ≤ 16 ∧ k = 16 - p.length % 16 ∧ pad p = p ++ List.replicate k (BitVec.ofNat 8 k)

/-- Padding validation (42_cipher.md R163): on a string whose length is a positive multiple of 16, `unpad` gives `r` exactly when the string is `r` and then `k` bytes of value `k`, with `1 <= k <= 16`, and fails otherwise. -/
def Obligations.UnpaddingIsExact : Prop :=
  ∀ q : List Byte, q ≠ [] → q.length % 16 = 0 →
    ∀ r, unpad q = some r ↔ ∃ k, 1 ≤ k ∧ k ≤ 16 ∧ q = r ++ List.replicate k (BitVec.ofNat 8 k)

/-- ECB (42_cipher.md R164): for a string of whole blocks the output is as long as the input, and its block `j` is the cipher of the input's block `j`, whatever the other blocks. -/
def Obligations.EcbWorksBlockByBlock : Prop :=
  ∀ (c : Config.CipherChoice) (k : Key) (p : List Byte), p.length % 16 = 0 →
    (ecbEnc c k p).length = p.length ∧ (ecbDec c k p).length = p.length
      ∧ ∀ j, j < p.length / 16 →
          ((ecbEnc c k p).drop (16 * j)).take 16 = (cipherE c k (toBlock ((p.drop (16 * j)).take 16))).toList
            ∧ ((ecbDec c k p).drop (16 * j)).take 16 = (cipherD c k (toBlock ((p.drop (16 * j)).take 16))).toList

/-- Decryption undoes encryption, for every CIPHER of the model, key and string; and the lengths (42_cipher.md R165, R167). -/
def Obligations.DecryptUndoesEncrypt : Prop :=
  ∀ (c : Config.CipherChoice) (k : Key),
    (∀ p : List Byte, encryptBytes c k p = ecbEnc c k (pad p) ∧ decryptBytes c k (encryptBytes c k p) = some p
        ∧ (encryptBytes c k p).length = 16 * (p.length / 16 + 1))
      ∧ ∀ q r : List Byte, decryptBytes c k q = some r → q.length - 16 ≤ r.length ∧ r.length ≤ q.length - 1

/-- `decrypt` fails exactly when the length is not a positive multiple of 16 or the padding of the deciphered blocks is invalid, and otherwise gives those blocks without the padding (42_cipher.md R166). -/
def Obligations.DecryptFailsExactlyOnBadLengthOrPadding : Prop :=
  ∀ (c : Config.CipherChoice) (k : Key) (q : List Byte),
    (decryptBytes c k q = none ↔
        q.length = 0 ∨ q.length % 16 ≠ 0
          ∨ ¬ ∃ r n, 1 ≤ n ∧ n ≤ 16 ∧ ecbDec c k q = r ++ List.replicate n (BitVec.ofNat 8 n))
      ∧ ∀ r, decryptBytes c k q = some r ↔
          q.length ≠ 0 ∧ q.length % 16 = 0 ∧ ∃ n, 1 ≤ n ∧ n ≤ 16 ∧ ecbDec c k q = r ++ List.replicate n (BitVec.ofNat 8 n)

/-- DERIVE_KEY (42_cipher.md R169, R161): with a key already valid it completes with KeyLocked and nothing changes; otherwise KEY is the first `min(PASS_LEN, 16)` passphrase bytes and then KEY_FILL, and KEY_VALID = 1. -/
def Obligations.DeriveKeyOnceThenLocked : Prop :=
  Sys2Proof.decode .c8 0x02 = .ok .deriveKey ∧ ∀ s : State,
    (s.keyValid = true → exec .deriveKey s = .next (ended 0x07 s))
      ∧ (s.keyValid = false →
          ∃ t, exec .deriveKey s = .next t ∧ t = { ended 0x00 s with keyValid := true, mem := t.mem }
            ∧ ∀ x, Memory.read t.mem x
                = if 0x030 ≤ x ∧ x < 0x040 then
                    some (if x - 0x030 < s.passLen.toNat then byteAt s (0x040 + (x - 0x030)) else s.cfg.keyFill)
                  else Memory.read s.mem x)

/-- BLOCK_ENC (42_cipher.md R170). -/
def Obligations.BlockEncCommand : Prop :=
  Sys2Proof.decode .c8 0x03 = .ok .blockEnc ∧ ∀ s : State,
    (s.keyValid = false → exec .blockEnc s = .next (ended 0x06 s))
      ∧ (s.keyValid = true → s.inLen ≠ 16 → exec .blockEnc s = .next (ended 0x08 s))
      ∧ (s.keyValid = true → s.inLen = 16 →
          ∃ t, exec .blockEnc s = .next t ∧ EndsWithOutput s t (cipherE s.cfg.cipher (keyOf s) (inBlock s)).toList)

/-- BLOCK_DEC (42_cipher.md R171). -/
def Obligations.BlockDecCommand : Prop :=
  Sys2Proof.decode .c8 0x04 = .ok .blockDec ∧ ∀ s : State,
    (s.keyValid = false → exec .blockDec s = .next (ended 0x06 s))
      ∧ (s.keyValid = true → s.inLen ≠ 16 → exec .blockDec s = .next (ended 0x08 s))
      ∧ (s.keyValid = true → s.inLen = 16 →
          ∃ t, exec .blockDec s = .next t ∧ EndsWithOutput s t (cipherD s.cfg.cipher (keyOf s) (inBlock s)).toList)

/-- ENCRYPT (42_cipher.md R172): LengthError from `IN_LEN = 128` on, since the padded output would not fit OUT. -/
def Obligations.EncryptCommand : Prop :=
  Sys2Proof.decode .c8 0x05 = .ok .encrypt ∧ ∀ s : State,
    (s.keyValid = false → exec .encrypt s = .next (ended 0x06 s))
      ∧ (s.keyValid = true → 128 ≤ s.inLen.toNat → exec .encrypt s = .next (ended 0x08 s))
      ∧ (s.keyValid = true → s.inLen.toNat < 128 →
          ∃ t, exec .encrypt s = .next t ∧ EndsWithOutput s t (encryptBytes s.cfg.cipher (keyOf s) (inBytes s))
            ∧ t.outLen.toNat = 16 * (s.inLen.toNat / 16 + 1))

/-- DECRYPT (42_cipher.md R173). -/
def Obligations.DecryptCommand : Prop :=
  Sys2Proof.decode .c8 0x06 = .ok .decrypt ∧ ∀ s : State,
    (s.keyValid = false → exec .decrypt s = .next (ended 0x06 s))
      ∧ (s.keyValid = true → 128 < s.inLen.toNat → exec .decrypt s = .next (ended 0x08 s))
      ∧ (s.keyValid = true → s.inLen.toNat ≤ 128 →
          (decryptBytes s.cfg.cipher (keyOf s) (inBytes s) = none → exec .decrypt s = .next (ended 0x03 s))
            ∧ ∀ r, decryptBytes s.cfg.cipher (keyOf s) (inBytes s) = some r →
                ∃ t, exec .decrypt s = .next t ∧ EndsWithOutput s t r ∧ t.outLen.toNat = r.length)

/-! ### The packet encoder (44_encoder.md) -/

/-- Decimal text (44_encoder.md R230, R231): `dec_u(v)` is a non-empty string of digits of value `v`, with no leading zero unless it is `"0"`, and no digit string of that value is shorter; `dec_s` writes a minus before the digits of a negative number and nothing else. -/
def Obligations.DecimalTextIsCanonical : Prop :=
  (∀ v : Nat, v < 2 ^ 32 →
      decU v ≠ [] ∧ (∀ b ∈ decU v, 0x30 ≤ b.toNat ∧ b.toNat ≤ 0x39)
        ∧ (decU v).foldl (fun n b => 10 * n + (b.toNat - 0x30)) 0 = v
        ∧ ((decU v).head? = some 0x30#8 → v = 0 ∧ decU v = [0x30#8])
        ∧ ∀ ds : List Byte, ds ≠ [] → (∀ b ∈ ds, 0x30 ≤ b.toNat ∧ b.toNat ≤ 0x39) → ds.foldl (fun n b => 10 * n + (b.toNat - 0x30)) 0 = v →
            (decU v).length ≤ ds.length)
    ∧ ∀ v : Int, -2 ^ 31 ≤ v → v ≤ 2 ^ 31 - 1 →
        (0 ≤ v → decS v = decU v.toNat) ∧ (v < 0 → decS v = 0x2D#8 :: decU (-v).toNat)

/-- The serialized length lies between 11 and 70, and both are reached (44_encoder.md R233). -/
def Obligations.SerializedLengthIsBounded : Prop :=
  (∀ x : Sample, 11 ≤ (serializeSample x).length ∧ (serializeSample x).length ≤ 70)
    ∧ (serializeSample ⟨0, 0, 0, 0, 0, 0⟩).length = 11
    ∧ (serializeSample ⟨0xFFFFFFFF, 0x80000000, 0x80000000, 0x80000000, 0x80000000, 0x80000000⟩).length = 70

/-- The frame length by the serialized length, for every CIPHER of the model (44_encoder.md R235). -/
def Obligations.FrameLengthBySerializedLength : Prop :=
  ∀ (c : Config.CipherChoice) (k : Key) (x : Sample),
    (encodeFrame c k x).length = 16 * ((serializeSample x).length / 16 + 1) + 1
      ∧ ((serializeSample x).length ≤ 15 → (encodeFrame c k x).length = 17)
      ∧ ((encodeFrame c k x).length = 33 ↔ 16 ≤ (serializeSample x).length ∧ (serializeSample x).length ≤ 31)
      ∧ (32 ≤ (serializeSample x).length → (serializeSample x).length ≤ 47 → (encodeFrame c k x).length = 49)
      ∧ (48 ≤ (serializeSample x).length → (serializeSample x).length ≤ 63 → (encodeFrame c k x).length = 65)
      ∧ (64 ≤ (serializeSample x).length → (encodeFrame c k x).length = 81)

/-- SERIALIZE never fails: OUT is the decimal text of the id and the five fields with five commas, and OUT_LEN its length, at most 70 (44_encoder.md R232, R236). -/
def Obligations.SerializeCommand : Prop :=
  Sys2Proof.decode .c8 0x07 = .ok .serialize ∧ ∀ s : State, ∃ t p, exec .serialize s = .next t
    ∧ p = decU (sampleOf s).id.toNat ++ [0x2C#8] ++ decS (sampleOf s).f0.toInt ++ [0x2C#8] ++ decS (sampleOf s).f1.toInt ++ [0x2C#8]
          ++ decS (sampleOf s).f2.toInt ++ [0x2C#8] ++ decS (sampleOf s).f3.toInt ++ [0x2C#8] ++ decS (sampleOf s).f4.toInt
    ∧ EndsWithOutput s t p ∧ t.outLen.toNat = p.length ∧ p.length ≤ 70

/-- ENCODE (44_encoder.md R234, R237): NoKey without a key; otherwise OUT is the ciphertext of the serialized sample and then its checksum, which CRC holds too. -/
def Obligations.EncodeCommand : Prop :=
  Sys2Proof.decode .c8 0x08 = .ok .encode ∧ ∀ s : State,
    (s.keyValid = false → exec .encode s = .next (ended 0x06 s))
      ∧ (s.keyValid = true →
          ∃ t cs, exec .encode s = .next t ∧ cs = encryptBytes s.cfg.cipher (keyOf s) (serializeSample (sampleOf s))
            ∧ t = { ended 0x00 s with outLen := BitVec.ofNat 8 (cs.length + 1), crc := checksum cs, mem := t.mem }
            ∧ StoredAt s.mem t.mem 0x200 (cs ++ [checksum cs]) ∧ t.outLen.toNat = cs.length + 1)

/-! ### The packet decoder (45_decoder.md) -/

/-- A valid integer literal is an optional sign and one or more digits, and its value is the digits' decimal value, negated after a minus (45_decoder.md R265). -/
def Obligations.IntegerLiteralGrammar : Prop :=
  ∀ (t : List Byte) (v : Int),
    literalValue t = some v ↔
      ∃ ds : List Byte, ds ≠ [] ∧ (∀ b ∈ ds, 0x30 ≤ b.toNat ∧ b.toNat ≤ 0x39)
        ∧ ∃ n : Nat, n = ds.foldl (fun n b => 10 * n + (b.toNat - 0x30)) 0
            ∧ ((t = ds ∧ v = n) ∨ (t = 0x2B#8 :: ds ∧ v = n) ∨ (t = 0x2D#8 :: ds ∧ v = -(n : Int)))

/-- Splitting (00_scope.md R11) and the Parse stage (45_decoder.md R264): `count + 1` tokens, none with the delimiter in it, which joined by the delimiter give the string; and the stage fails with FormatError exactly when there are not five commas. -/
def Obligations.ParseStageCountsTokens : Prop :=
  (∀ (d : Byte) (bs : List Byte), (splitBytes d bs).length = bs.count d + 1 ∧ (∀ t ∈ splitBytes d bs, d ∉ t)
      ∧ [d].intercalate (splitBytes d bs) = bs)
    ∧ ∀ p : List Byte, parsePayload p = .error .formatError ↔ p.count 0x2C#8 ≠ 5

/-- The Convert stage (45_decoder.md R266): a payload is accepted with `x` exactly when it is six comma-free tokens joined by commas, token 0 a literal of the value of SAMPLE_ID, as an unsigned number, and tokens 1 to 5 literals of the values of the fields, as signed numbers; six tokens that are not accepted give ValueError. -/
def Obligations.PayloadAcceptedExactlyWhenItConverts : Prop :=
  (∀ (p : List Byte) (x : Sample), parsePayload p = .ok x ↔
      ∃ t0 t1 t2 t3 t4 t5 : List Byte,
        p = t0 ++ [0x2C#8] ++ t1 ++ [0x2C#8] ++ t2 ++ [0x2C#8] ++ t3 ++ [0x2C#8] ++ t4 ++ [0x2C#8] ++ t5
          ∧ literalValue t0 = some (x.id.toNat : Int) ∧ literalValue t1 = some x.f0.toInt ∧ literalValue t2 = some x.f1.toInt
          ∧ literalValue t3 = some x.f2.toInt ∧ literalValue t4 = some x.f3.toInt ∧ literalValue t5 = some x.f4.toInt)
    ∧ ∀ p : List Byte, p.count 0x2C#8 = 5 → (∀ x, parsePayload p ≠ .ok x) → parsePayload p = .error .valueError

/-- The decoder's Parse and Convert stages accept every text the encoder produces, and give the sample back (44_encoder.md R232, 45_decoder.md R264 to R266). -/
def Obligations.SerializedSampleParsesBack : Prop :=
  ∀ x : Sample, parsePayload (serializeSample x) = .ok x

/-- PARSE (45_decoder.md R269). -/
def Obligations.ParseCommand : Prop :=
  Sys2Proof.decode .c8 0x09 = .ok .parse ∧ ∀ s : State,
    (128 < s.inLen.toNat → exec .parse s = .next (ended 0x08 s))
      ∧ (s.inLen.toNat ≤ 128 →
          ((inBytes s).count 0x2C#8 ≠ 5 → exec .parse s = .next (ended 0x04 s))
            ∧ ((inBytes s).count 0x2C#8 = 5 → (∀ x, parsePayload (inBytes s) ≠ .ok x) → exec .parse s = .next (ended 0x05 s))
            ∧ ∀ x, parsePayload (inBytes s) = .ok x → ∃ t, exec .parse s = .next t ∧ EndsWithSample s t x)

/-- DECODE (45_decoder.md R270), outcome by outcome in the order of the pipeline. `q` is the ciphertext and `rx` the received checksum. -/
def Obligations.DecodeCommand : Prop :=
  Sys2Proof.decode .c8 0x0A = .ok .decode ∧ ∀ s : State,
    let q := (inBytes s).dropLast
    let rx := (inBytes s).getLastD 0
    let reached := { s with crc := checksum q, rxcrc := rx }
    (s.keyValid = false → exec .decode s = .next { ended 0x06 s with integrity := false })
      ∧ (s.keyValid = true → 128 < s.inLen.toNat → exec .decode s = .next { ended 0x08 s with integrity := false })
      ∧ (s.keyValid = true → s.inLen.toNat < 17 → exec .decode s = .next { ended 0x01 s with integrity := false })
      ∧ (s.keyValid = true → 17 ≤ s.inLen.toNat → s.inLen.toNat ≤ 128 →
          (rx ≠ checksum q → exec .decode s = .next { ended 0x02 reached with integrity := false })
            ∧ (rx = checksum q →
                (decryptBytes s.cfg.cipher (keyOf s) q = none →
                    exec .decode s = .next { ended 0x03 reached with integrity := false })
                  ∧ ∀ p, decryptBytes s.cfg.cipher (keyOf s) q = some p →
                      ((∃ b ∈ p, 0x80 ≤ b.toNat) → exec .decode s = .next { ended 0x03 reached with integrity := false })
                        ∧ ((∀ b ∈ p, b.toNat < 0x80) →
                            (p.count 0x2C#8 ≠ 5 → exec .decode s = .next { ended 0x04 reached with integrity := false })
                              ∧ (p.count 0x2C#8 = 5 → (∀ x, parsePayload p ≠ .ok x) →
                                  exec .decode s = .next { ended 0x05 reached with integrity := false })
                              ∧ ∀ x, parsePayload p = .ok x →
                                  ∃ t, exec .decode s = .next t
                                    ∧ t = { ended 0x00 reached with integrity := true, mem := t.mem }
                                    ∧ StoredAt s.mem t.mem 0x010 (sampleBytes x))))

/-- Round trip (45_decoder.md R268(a)): ENCODE any sample with a valid key, bring the frame to IN of a codec with the same key and CIPHER, and DECODE completes with OK, INTEGRITY = 1, CRC = RXCRC and the sample registers as they were. KEY is defined, as it is in every state a run reaches while KEY_VALID = 1 (`Inv`). -/
def Obligations.DecodeUndoesEncode : Prop :=
  ∀ s : State, s.keyValid = true → (∀ i, i < 16 → (Memory.read s.mem (0x030 + i)).isSome = true) →
    ∃ t, exec .encode s = .next t ∧ t.result = 0x00 ∧
      ∀ u : State, u.cfg = s.cfg → u.keyValid = true →
        (∀ i, i < 16 → Memory.read u.mem (0x030 + i) = Memory.read s.mem (0x030 + i)) →
        u.inLen = t.outLen →
        (∀ i, i < t.outLen.toNat → Memory.read u.mem (0x100 + i) = Memory.read t.mem (0x200 + i)) →
        ∃ v, exec .decode u = .next v ∧ v.result = 0x00 ∧ v.integrity = true ∧ v.crc = v.rxcrc ∧ sampleOf v = sampleOf s

/-- One flipped bit in a frame whose last byte is the checksum of the rest makes DECODE complete with CrcMismatch, wherever the bit is (45_decoder.md R268(b)). -/
def Obligations.SingleBitErrorIsCrcMismatch : Prop :=
  ∀ (s : State) (f : List Byte) (i j : Nat), s.keyValid = true → 17 ≤ s.inLen.toNat → s.inLen.toNat ≤ 128 →
    i < f.length → j < 8 → f.getLastD 0 = checksum f.dropLast → inBytes s = f.modify i (fun b => b ^^^ (1#8 <<< j)) →
    ∃ t, exec .decode s = .next t ∧ t.result = 0x02 ∧ t.integrity = false

/-- DECODE depends only on the frame in IN and on the key (45_decoder.md R271): two codecs that agree on these agree on the result, on INTEGRITY and, as far as the command writes them, on CRC, RXCRC and the sample registers, whatever each did before. -/
def Obligations.DecodeDependsOnlyOnFrameAndKey : Prop :=
  ∀ s u t v : State, s.cfg = u.cfg → s.keyValid = u.keyValid → keyOf s = keyOf u → s.inLen = u.inLen → inBytes s = inBytes u →
    exec .decode s = .next t → exec .decode u = .next v →
    t.result = v.result ∧ t.integrity = v.integrity
      ∧ (s.keyValid = true → 17 ≤ s.inLen.toNat → s.inLen.toNat ≤ 128 → t.crc = v.crc ∧ t.rxcrc = v.rxcrc)
      ∧ (t.result = 0x00 → ∀ a, SampleAddr a → Memory.read t.mem a = Memory.read v.mem a)

/-! ### Whole-machine rules -/

/-- Reset meets the invariant. -/
def Obligations.ResetMeetsTheInvariant : Prop := Inv State.reset

/-- Every step keeps the invariant `Inv`: memory in canonical form, RESULT a legal code (10_state.md R32), OUT_LEN at most 128 (R36) with its bytes defined, KEY defined exactly while KEY_VALID = 1 (R40), never BUSY with DONE, INTEGRITY only with a key, and nothing computed before the first completion (R27). -/
def Obligations.StepKeepsTheInvariant : Prop :=
  ∀ s t : State, Inv s → step s = .next t → Inv t

/-- The key lock (10_state.md R29, R40; 60_exceptions.md R309): once KEY_VALID = 1, no step but a reset by the platform clears it or changes a byte of KEY. -/
def Obligations.LockedKeyChangesOnlyByReset : Prop :=
  ∀ s t : State, s.keyValid = true → resetIsNext s = false → step s = .next t →
    t.keyValid = true ∧ ∀ a, KeyAddr a → Memory.read t.mem a = Memory.read s.mem a

/-- No step changes the parameters of the instance, which 10_state.md R23 calls fixed, and nothing but a malformed host word stops a step: no command and no transaction does (60_exceptions.md R301). That the parameters stand in the state is the model's choice (log 5, DESIGN CHOICE), as the agenda is (log 1); that a step at a malformed word stops is the model's reading of a transcriber's refusal (log 9, DEDUCED). -/
def Obligations.StepsKeepTheInstanceAndStopOnlyAtMalformedWords : Prop :=
  ∀ s : State,
    (∃ t, step s = .next t ∧ t.cfg = s.cfg)
      ∨ (Stops s ∧ ∃ w rest e, s.agenda = .host w :: rest ∧ decode .tw w = .error e)

/-- Memory in canonical form is determined by what it holds: equal memories are equal data. (The model's own representation of 10_state.md R45: log 12.) -/
def Obligations.CanonicalMemoriesWithEqualBytesAreEqual : Prop :=
  ∀ m m' : Memory, Memory.wf m = true → Memory.wf m' = true → (∀ a, Memory.read m a = Memory.read m' a) → m = m'
end

