-- ==== Sys2Proof/Laws/Decode.lean ====
section
/-! SUPPORT. The decoder's equations, one for each case, and the words of the two transactions as numbers. -/

namespace Sys2Proof

theorem decode_c8 {w : Nat} (h : w < 2 ^ 8) : decode .c8 w = .ok (decodeC8 (BitVec.ofNat 8 w)) := if_pos h

theorem decode_c8_byte (op : Byte) : decode .c8 op.toNat = .ok (decodeC8 op) := by
  rw [decode_c8 op.isLt, BitVec.ofNat_toNat, BitVec.setWidth_eq]

theorem decode_c8_tooWide {w : Nat} (h : ¬ w < 2 ^ 8) : decode .c8 w = .error .wordTooWide := if_neg h

theorem decode_tw {w : Nat} (h : w < 2 ^ 19) : decode .tw w = decodeTw w := if_pos h

theorem decode_tw_tooWide {w : Nat} (h : ¬ w < 2 ^ 19) : decode .tw w = .error .wordTooWide := if_neg h

/-- A command byte decodes to a command, never to a host transaction. -/
theorem decodeC8_format (op : Byte) : (decodeC8 op).format = .c8 := by
  unfold decodeC8
  split <;> rfl

/-- A transaction word that decodes is a bus write or a bus read. -/
theorem decode_tw_cases {w : Nat} {i : Instr} (h : decode .tw w = .ok i) : (∃ a v, i = .busWr a v) ∨ ∃ a, i = .busRd a := by
  simp only [decode, decodeTw] at h
  split at h
  · split at h
    · cases h; exact .inl ⟨_, _, rfl⟩
    · split at h
      · cases h; exact .inr ⟨_, rfl⟩
      · cases h
  · cases h

/-- The fields of a word put together from its fields. -/
theorem twAddr_word (a : Addr) (v : Byte) (w : Nat) : twAddr (w * 0x40000 + a.toNat * 2 ^ 8 + v.toNat) = a := by
  apply BitVec.eq_of_toNat_eq
  have := a.isLt
  have := v.isLt
  rw [twAddr, BitVec.toNat_ofNat]
  omega

theorem twByte_word (a : Addr) (v : Byte) (w : Nat) : twByte (w * 0x40000 + a.toNat * 2 ^ 8 + v.toNat) = v := by
  apply BitVec.eq_of_toNat_eq
  have := v.isLt
  rw [twByte, BitVec.toNat_ofNat]
  omega

/-- Bit 18 of a word below `2^19` says whether it is at least `2^18`. -/
theorem testBit_18 {w : Nat} (h : w < 2 ^ 19) : w.testBit 18 = decide (2 ^ 18 ≤ w) := by
  rw [Nat.testBit_eq_decide_div_mod_eq]
  by_cases h' : 2 ^ 18 ≤ w
  · rw [decide_eq_true h', decide_eq_true (by omega)]
  · rw [decide_eq_false h', decide_eq_false (by omega)]

end Sys2Proof
end

