-- ==== Sys2Proof/Laws/State.lean ====
section
/-! SUPPORT. One lemma for each field after each named update of the state: no proof needs to unfold a record update. -/

namespace Sys2Proof.Machine

variable (s : State)

/-! ### `setErrBusy` -/

@[simp] theorem setErrBusy_cmd (b : Bool) : (setErrBusy b s).cmd = s.cmd := rfl
@[simp] theorem setErrBusy_busy (b : Bool) : (setErrBusy b s).busy = s.busy := rfl
@[simp] theorem setErrBusy_done (b : Bool) : (setErrBusy b s).done = s.done := rfl
@[simp] theorem setErrBusy_errBusy (b : Bool) : (setErrBusy b s).errBusy = b := rfl
@[simp] theorem setErrBusy_keyValid (b : Bool) : (setErrBusy b s).keyValid = s.keyValid := rfl
@[simp] theorem setErrBusy_integrity (b : Bool) : (setErrBusy b s).integrity = s.integrity := rfl
@[simp] theorem setErrBusy_result (b : Bool) : (setErrBusy b s).result = s.result := rfl
@[simp] theorem setErrBusy_crc (b : Bool) : (setErrBusy b s).crc = s.crc := rfl
@[simp] theorem setErrBusy_rxcrc (b : Bool) : (setErrBusy b s).rxcrc = s.rxcrc := rfl
@[simp] theorem setErrBusy_inLen (b : Bool) : (setErrBusy b s).inLen = s.inLen := rfl
@[simp] theorem setErrBusy_outLen (b : Bool) : (setErrBusy b s).outLen = s.outLen := rfl
@[simp] theorem setErrBusy_passLen (b : Bool) : (setErrBusy b s).passLen = s.passLen := rfl
@[simp] theorem setErrBusy_mem (b : Bool) : (setErrBusy b s).mem = s.mem := rfl
@[simp] theorem setErrBusy_cfg (b : Bool) : (setErrBusy b s).cfg = s.cfg := rfl
@[simp] theorem setErrBusy_agenda (b : Bool) : (setErrBusy b s).agenda = s.agenda := rfl
@[simp] theorem setErrBusy_readLog (b : Bool) : (setErrBusy b s).readLog = s.readLog := rfl
@[simp] theorem setErrBusy_draw (b : Bool) : (setErrBusy b s).draw = s.draw := rfl

/-! ### `setKeyValid` -/

@[simp] theorem setKeyValid_cmd (b : Bool) : (setKeyValid b s).cmd = s.cmd := rfl
@[simp] theorem setKeyValid_busy (b : Bool) : (setKeyValid b s).busy = s.busy := rfl
@[simp] theorem setKeyValid_done (b : Bool) : (setKeyValid b s).done = s.done := rfl
@[simp] theorem setKeyValid_errBusy (b : Bool) : (setKeyValid b s).errBusy = s.errBusy := rfl
@[simp] theorem setKeyValid_keyValid (b : Bool) : (setKeyValid b s).keyValid = b := rfl
@[simp] theorem setKeyValid_integrity (b : Bool) : (setKeyValid b s).integrity = s.integrity := rfl
@[simp] theorem setKeyValid_result (b : Bool) : (setKeyValid b s).result = s.result := rfl
@[simp] theorem setKeyValid_crc (b : Bool) : (setKeyValid b s).crc = s.crc := rfl
@[simp] theorem setKeyValid_rxcrc (b : Bool) : (setKeyValid b s).rxcrc = s.rxcrc := rfl
@[simp] theorem setKeyValid_inLen (b : Bool) : (setKeyValid b s).inLen = s.inLen := rfl
@[simp] theorem setKeyValid_outLen (b : Bool) : (setKeyValid b s).outLen = s.outLen := rfl
@[simp] theorem setKeyValid_passLen (b : Bool) : (setKeyValid b s).passLen = s.passLen := rfl
@[simp] theorem setKeyValid_mem (b : Bool) : (setKeyValid b s).mem = s.mem := rfl
@[simp] theorem setKeyValid_cfg (b : Bool) : (setKeyValid b s).cfg = s.cfg := rfl
@[simp] theorem setKeyValid_agenda (b : Bool) : (setKeyValid b s).agenda = s.agenda := rfl
@[simp] theorem setKeyValid_readLog (b : Bool) : (setKeyValid b s).readLog = s.readLog := rfl
@[simp] theorem setKeyValid_draw (b : Bool) : (setKeyValid b s).draw = s.draw := rfl

/-! ### `setIntegrity` -/

@[simp] theorem setIntegrity_cmd (b : Bool) : (setIntegrity b s).cmd = s.cmd := rfl
@[simp] theorem setIntegrity_busy (b : Bool) : (setIntegrity b s).busy = s.busy := rfl
@[simp] theorem setIntegrity_done (b : Bool) : (setIntegrity b s).done = s.done := rfl
@[simp] theorem setIntegrity_errBusy (b : Bool) : (setIntegrity b s).errBusy = s.errBusy := rfl
@[simp] theorem setIntegrity_keyValid (b : Bool) : (setIntegrity b s).keyValid = s.keyValid := rfl
@[simp] theorem setIntegrity_integrity (b : Bool) : (setIntegrity b s).integrity = b := rfl
@[simp] theorem setIntegrity_result (b : Bool) : (setIntegrity b s).result = s.result := rfl
@[simp] theorem setIntegrity_crc (b : Bool) : (setIntegrity b s).crc = s.crc := rfl
@[simp] theorem setIntegrity_rxcrc (b : Bool) : (setIntegrity b s).rxcrc = s.rxcrc := rfl
@[simp] theorem setIntegrity_inLen (b : Bool) : (setIntegrity b s).inLen = s.inLen := rfl
@[simp] theorem setIntegrity_outLen (b : Bool) : (setIntegrity b s).outLen = s.outLen := rfl
@[simp] theorem setIntegrity_passLen (b : Bool) : (setIntegrity b s).passLen = s.passLen := rfl
@[simp] theorem setIntegrity_mem (b : Bool) : (setIntegrity b s).mem = s.mem := rfl
@[simp] theorem setIntegrity_cfg (b : Bool) : (setIntegrity b s).cfg = s.cfg := rfl
@[simp] theorem setIntegrity_agenda (b : Bool) : (setIntegrity b s).agenda = s.agenda := rfl
@[simp] theorem setIntegrity_readLog (b : Bool) : (setIntegrity b s).readLog = s.readLog := rfl
@[simp] theorem setIntegrity_draw (b : Bool) : (setIntegrity b s).draw = s.draw := rfl

/-! ### `setCrc` -/

@[simp] theorem setCrc_cmd (v : Byte) : (setCrc v s).cmd = s.cmd := rfl
@[simp] theorem setCrc_busy (v : Byte) : (setCrc v s).busy = s.busy := rfl
@[simp] theorem setCrc_done (v : Byte) : (setCrc v s).done = s.done := rfl
@[simp] theorem setCrc_errBusy (v : Byte) : (setCrc v s).errBusy = s.errBusy := rfl
@[simp] theorem setCrc_keyValid (v : Byte) : (setCrc v s).keyValid = s.keyValid := rfl
@[simp] theorem setCrc_integrity (v : Byte) : (setCrc v s).integrity = s.integrity := rfl
@[simp] theorem setCrc_result (v : Byte) : (setCrc v s).result = s.result := rfl
@[simp] theorem setCrc_crc (v : Byte) : (setCrc v s).crc = v := rfl
@[simp] theorem setCrc_rxcrc (v : Byte) : (setCrc v s).rxcrc = s.rxcrc := rfl
@[simp] theorem setCrc_inLen (v : Byte) : (setCrc v s).inLen = s.inLen := rfl
@[simp] theorem setCrc_outLen (v : Byte) : (setCrc v s).outLen = s.outLen := rfl
@[simp] theorem setCrc_passLen (v : Byte) : (setCrc v s).passLen = s.passLen := rfl
@[simp] theorem setCrc_mem (v : Byte) : (setCrc v s).mem = s.mem := rfl
@[simp] theorem setCrc_cfg (v : Byte) : (setCrc v s).cfg = s.cfg := rfl
@[simp] theorem setCrc_agenda (v : Byte) : (setCrc v s).agenda = s.agenda := rfl
@[simp] theorem setCrc_readLog (v : Byte) : (setCrc v s).readLog = s.readLog := rfl
@[simp] theorem setCrc_draw (v : Byte) : (setCrc v s).draw = s.draw := rfl

/-! ### `setRxcrc` -/

@[simp] theorem setRxcrc_cmd (v : Byte) : (setRxcrc v s).cmd = s.cmd := rfl
@[simp] theorem setRxcrc_busy (v : Byte) : (setRxcrc v s).busy = s.busy := rfl
@[simp] theorem setRxcrc_done (v : Byte) : (setRxcrc v s).done = s.done := rfl
@[simp] theorem setRxcrc_errBusy (v : Byte) : (setRxcrc v s).errBusy = s.errBusy := rfl
@[simp] theorem setRxcrc_keyValid (v : Byte) : (setRxcrc v s).keyValid = s.keyValid := rfl
@[simp] theorem setRxcrc_integrity (v : Byte) : (setRxcrc v s).integrity = s.integrity := rfl
@[simp] theorem setRxcrc_result (v : Byte) : (setRxcrc v s).result = s.result := rfl
@[simp] theorem setRxcrc_crc (v : Byte) : (setRxcrc v s).crc = s.crc := rfl
@[simp] theorem setRxcrc_rxcrc (v : Byte) : (setRxcrc v s).rxcrc = v := rfl
@[simp] theorem setRxcrc_inLen (v : Byte) : (setRxcrc v s).inLen = s.inLen := rfl
@[simp] theorem setRxcrc_outLen (v : Byte) : (setRxcrc v s).outLen = s.outLen := rfl
@[simp] theorem setRxcrc_passLen (v : Byte) : (setRxcrc v s).passLen = s.passLen := rfl
@[simp] theorem setRxcrc_mem (v : Byte) : (setRxcrc v s).mem = s.mem := rfl
@[simp] theorem setRxcrc_cfg (v : Byte) : (setRxcrc v s).cfg = s.cfg := rfl
@[simp] theorem setRxcrc_agenda (v : Byte) : (setRxcrc v s).agenda = s.agenda := rfl
@[simp] theorem setRxcrc_readLog (v : Byte) : (setRxcrc v s).readLog = s.readLog := rfl
@[simp] theorem setRxcrc_draw (v : Byte) : (setRxcrc v s).draw = s.draw := rfl

/-! ### `setInLen` -/

@[simp] theorem setInLen_cmd (v : Byte) : (setInLen v s).cmd = s.cmd := rfl
@[simp] theorem setInLen_busy (v : Byte) : (setInLen v s).busy = s.busy := rfl
@[simp] theorem setInLen_done (v : Byte) : (setInLen v s).done = s.done := rfl
@[simp] theorem setInLen_errBusy (v : Byte) : (setInLen v s).errBusy = s.errBusy := rfl
@[simp] theorem setInLen_keyValid (v : Byte) : (setInLen v s).keyValid = s.keyValid := rfl
@[simp] theorem setInLen_integrity (v : Byte) : (setInLen v s).integrity = s.integrity := rfl
@[simp] theorem setInLen_result (v : Byte) : (setInLen v s).result = s.result := rfl
@[simp] theorem setInLen_crc (v : Byte) : (setInLen v s).crc = s.crc := rfl
@[simp] theorem setInLen_rxcrc (v : Byte) : (setInLen v s).rxcrc = s.rxcrc := rfl
@[simp] theorem setInLen_inLen (v : Byte) : (setInLen v s).inLen = v := rfl
@[simp] theorem setInLen_outLen (v : Byte) : (setInLen v s).outLen = s.outLen := rfl
@[simp] theorem setInLen_passLen (v : Byte) : (setInLen v s).passLen = s.passLen := rfl
@[simp] theorem setInLen_mem (v : Byte) : (setInLen v s).mem = s.mem := rfl
@[simp] theorem setInLen_cfg (v : Byte) : (setInLen v s).cfg = s.cfg := rfl
@[simp] theorem setInLen_agenda (v : Byte) : (setInLen v s).agenda = s.agenda := rfl
@[simp] theorem setInLen_readLog (v : Byte) : (setInLen v s).readLog = s.readLog := rfl
@[simp] theorem setInLen_draw (v : Byte) : (setInLen v s).draw = s.draw := rfl

/-! ### `setOutLen` -/

@[simp] theorem setOutLen_cmd (v : Byte) : (setOutLen v s).cmd = s.cmd := rfl
@[simp] theorem setOutLen_busy (v : Byte) : (setOutLen v s).busy = s.busy := rfl
@[simp] theorem setOutLen_done (v : Byte) : (setOutLen v s).done = s.done := rfl
@[simp] theorem setOutLen_errBusy (v : Byte) : (setOutLen v s).errBusy = s.errBusy := rfl
@[simp] theorem setOutLen_keyValid (v : Byte) : (setOutLen v s).keyValid = s.keyValid := rfl
@[simp] theorem setOutLen_integrity (v : Byte) : (setOutLen v s).integrity = s.integrity := rfl
@[simp] theorem setOutLen_result (v : Byte) : (setOutLen v s).result = s.result := rfl
@[simp] theorem setOutLen_crc (v : Byte) : (setOutLen v s).crc = s.crc := rfl
@[simp] theorem setOutLen_rxcrc (v : Byte) : (setOutLen v s).rxcrc = s.rxcrc := rfl
@[simp] theorem setOutLen_inLen (v : Byte) : (setOutLen v s).inLen = s.inLen := rfl
@[simp] theorem setOutLen_outLen (v : Byte) : (setOutLen v s).outLen = v := rfl
@[simp] theorem setOutLen_passLen (v : Byte) : (setOutLen v s).passLen = s.passLen := rfl
@[simp] theorem setOutLen_mem (v : Byte) : (setOutLen v s).mem = s.mem := rfl
@[simp] theorem setOutLen_cfg (v : Byte) : (setOutLen v s).cfg = s.cfg := rfl
@[simp] theorem setOutLen_agenda (v : Byte) : (setOutLen v s).agenda = s.agenda := rfl
@[simp] theorem setOutLen_readLog (v : Byte) : (setOutLen v s).readLog = s.readLog := rfl
@[simp] theorem setOutLen_draw (v : Byte) : (setOutLen v s).draw = s.draw := rfl

/-! ### `setPassLen` -/

@[simp] theorem setPassLen_cmd (v : Byte) : (setPassLen v s).cmd = s.cmd := rfl
@[simp] theorem setPassLen_busy (v : Byte) : (setPassLen v s).busy = s.busy := rfl
@[simp] theorem setPassLen_done (v : Byte) : (setPassLen v s).done = s.done := rfl
@[simp] theorem setPassLen_errBusy (v : Byte) : (setPassLen v s).errBusy = s.errBusy := rfl
@[simp] theorem setPassLen_keyValid (v : Byte) : (setPassLen v s).keyValid = s.keyValid := rfl
@[simp] theorem setPassLen_integrity (v : Byte) : (setPassLen v s).integrity = s.integrity := rfl
@[simp] theorem setPassLen_result (v : Byte) : (setPassLen v s).result = s.result := rfl
@[simp] theorem setPassLen_crc (v : Byte) : (setPassLen v s).crc = s.crc := rfl
@[simp] theorem setPassLen_rxcrc (v : Byte) : (setPassLen v s).rxcrc = s.rxcrc := rfl
@[simp] theorem setPassLen_inLen (v : Byte) : (setPassLen v s).inLen = s.inLen := rfl
@[simp] theorem setPassLen_outLen (v : Byte) : (setPassLen v s).outLen = s.outLen := rfl
@[simp] theorem setPassLen_passLen (v : Byte) : (setPassLen v s).passLen = v := rfl
@[simp] theorem setPassLen_mem (v : Byte) : (setPassLen v s).mem = s.mem := rfl
@[simp] theorem setPassLen_cfg (v : Byte) : (setPassLen v s).cfg = s.cfg := rfl
@[simp] theorem setPassLen_agenda (v : Byte) : (setPassLen v s).agenda = s.agenda := rfl
@[simp] theorem setPassLen_readLog (v : Byte) : (setPassLen v s).readLog = s.readLog := rfl
@[simp] theorem setPassLen_draw (v : Byte) : (setPassLen v s).draw = s.draw := rfl

/-! ### `setAgenda` -/

@[simp] theorem setAgenda_cmd (l : List Event) : (setAgenda l s).cmd = s.cmd := rfl
@[simp] theorem setAgenda_busy (l : List Event) : (setAgenda l s).busy = s.busy := rfl
@[simp] theorem setAgenda_done (l : List Event) : (setAgenda l s).done = s.done := rfl
@[simp] theorem setAgenda_errBusy (l : List Event) : (setAgenda l s).errBusy = s.errBusy := rfl
@[simp] theorem setAgenda_keyValid (l : List Event) : (setAgenda l s).keyValid = s.keyValid := rfl
@[simp] theorem setAgenda_integrity (l : List Event) : (setAgenda l s).integrity = s.integrity := rfl
@[simp] theorem setAgenda_result (l : List Event) : (setAgenda l s).result = s.result := rfl
@[simp] theorem setAgenda_crc (l : List Event) : (setAgenda l s).crc = s.crc := rfl
@[simp] theorem setAgenda_rxcrc (l : List Event) : (setAgenda l s).rxcrc = s.rxcrc := rfl
@[simp] theorem setAgenda_inLen (l : List Event) : (setAgenda l s).inLen = s.inLen := rfl
@[simp] theorem setAgenda_outLen (l : List Event) : (setAgenda l s).outLen = s.outLen := rfl
@[simp] theorem setAgenda_passLen (l : List Event) : (setAgenda l s).passLen = s.passLen := rfl
@[simp] theorem setAgenda_mem (l : List Event) : (setAgenda l s).mem = s.mem := rfl
@[simp] theorem setAgenda_cfg (l : List Event) : (setAgenda l s).cfg = s.cfg := rfl
@[simp] theorem setAgenda_agenda (l : List Event) : (setAgenda l s).agenda = l := rfl
@[simp] theorem setAgenda_readLog (l : List Event) : (setAgenda l s).readLog = s.readLog := rfl
@[simp] theorem setAgenda_draw (l : List Event) : (setAgenda l s).draw = s.draw := rfl

/-! ### `nextDraw` -/

@[simp] theorem nextDraw_cmd : (nextDraw s).cmd = s.cmd := rfl
@[simp] theorem nextDraw_busy : (nextDraw s).busy = s.busy := rfl
@[simp] theorem nextDraw_done : (nextDraw s).done = s.done := rfl
@[simp] theorem nextDraw_errBusy : (nextDraw s).errBusy = s.errBusy := rfl
@[simp] theorem nextDraw_keyValid : (nextDraw s).keyValid = s.keyValid := rfl
@[simp] theorem nextDraw_integrity : (nextDraw s).integrity = s.integrity := rfl
@[simp] theorem nextDraw_result : (nextDraw s).result = s.result := rfl
@[simp] theorem nextDraw_crc : (nextDraw s).crc = s.crc := rfl
@[simp] theorem nextDraw_rxcrc : (nextDraw s).rxcrc = s.rxcrc := rfl
@[simp] theorem nextDraw_inLen : (nextDraw s).inLen = s.inLen := rfl
@[simp] theorem nextDraw_outLen : (nextDraw s).outLen = s.outLen := rfl
@[simp] theorem nextDraw_passLen : (nextDraw s).passLen = s.passLen := rfl
@[simp] theorem nextDraw_mem : (nextDraw s).mem = s.mem := rfl
@[simp] theorem nextDraw_cfg : (nextDraw s).cfg = s.cfg := rfl
@[simp] theorem nextDraw_agenda : (nextDraw s).agenda = s.agenda := rfl
@[simp] theorem nextDraw_readLog : (nextDraw s).readLog = s.readLog := rfl
@[simp] theorem nextDraw_draw : (nextDraw s).draw = s.draw + 1 := rfl

/-! ### `logRead` -/

@[simp] theorem logRead_cmd (a : Addr) (v : Byte) : (logRead a v s).cmd = s.cmd := rfl
@[simp] theorem logRead_busy (a : Addr) (v : Byte) : (logRead a v s).busy = s.busy := rfl
@[simp] theorem logRead_done (a : Addr) (v : Byte) : (logRead a v s).done = s.done := rfl
@[simp] theorem logRead_errBusy (a : Addr) (v : Byte) : (logRead a v s).errBusy = s.errBusy := rfl
@[simp] theorem logRead_keyValid (a : Addr) (v : Byte) : (logRead a v s).keyValid = s.keyValid := rfl
@[simp] theorem logRead_integrity (a : Addr) (v : Byte) : (logRead a v s).integrity = s.integrity := rfl
@[simp] theorem logRead_result (a : Addr) (v : Byte) : (logRead a v s).result = s.result := rfl
@[simp] theorem logRead_crc (a : Addr) (v : Byte) : (logRead a v s).crc = s.crc := rfl
@[simp] theorem logRead_rxcrc (a : Addr) (v : Byte) : (logRead a v s).rxcrc = s.rxcrc := rfl
@[simp] theorem logRead_inLen (a : Addr) (v : Byte) : (logRead a v s).inLen = s.inLen := rfl
@[simp] theorem logRead_outLen (a : Addr) (v : Byte) : (logRead a v s).outLen = s.outLen := rfl
@[simp] theorem logRead_passLen (a : Addr) (v : Byte) : (logRead a v s).passLen = s.passLen := rfl
@[simp] theorem logRead_mem (a : Addr) (v : Byte) : (logRead a v s).mem = s.mem := rfl
@[simp] theorem logRead_cfg (a : Addr) (v : Byte) : (logRead a v s).cfg = s.cfg := rfl
@[simp] theorem logRead_agenda (a : Addr) (v : Byte) : (logRead a v s).agenda = s.agenda := rfl
@[simp] theorem logRead_readLog (a : Addr) (v : Byte) : (logRead a v s).readLog = (a, v) :: s.readLog := rfl
@[simp] theorem logRead_draw (a : Addr) (v : Byte) : (logRead a v s).draw = s.draw := rfl

/-! ### `storeBytes` -/

@[simp] theorem storeBytes_cmd (a : Nat) (bs : List Byte) : (storeBytes a bs s).cmd = s.cmd := rfl
@[simp] theorem storeBytes_busy (a : Nat) (bs : List Byte) : (storeBytes a bs s).busy = s.busy := rfl
@[simp] theorem storeBytes_done (a : Nat) (bs : List Byte) : (storeBytes a bs s).done = s.done := rfl
@[simp] theorem storeBytes_errBusy (a : Nat) (bs : List Byte) : (storeBytes a bs s).errBusy = s.errBusy := rfl
@[simp] theorem storeBytes_keyValid (a : Nat) (bs : List Byte) : (storeBytes a bs s).keyValid = s.keyValid := rfl
@[simp] theorem storeBytes_integrity (a : Nat) (bs : List Byte) : (storeBytes a bs s).integrity = s.integrity := rfl
@[simp] theorem storeBytes_result (a : Nat) (bs : List Byte) : (storeBytes a bs s).result = s.result := rfl
@[simp] theorem storeBytes_crc (a : Nat) (bs : List Byte) : (storeBytes a bs s).crc = s.crc := rfl
@[simp] theorem storeBytes_rxcrc (a : Nat) (bs : List Byte) : (storeBytes a bs s).rxcrc = s.rxcrc := rfl
@[simp] theorem storeBytes_inLen (a : Nat) (bs : List Byte) : (storeBytes a bs s).inLen = s.inLen := rfl
@[simp] theorem storeBytes_outLen (a : Nat) (bs : List Byte) : (storeBytes a bs s).outLen = s.outLen := rfl
@[simp] theorem storeBytes_passLen (a : Nat) (bs : List Byte) : (storeBytes a bs s).passLen = s.passLen := rfl
@[simp] theorem storeBytes_mem (a : Nat) (bs : List Byte) : (storeBytes a bs s).mem = Memory.writeBytes s.mem a bs := rfl
@[simp] theorem storeBytes_cfg (a : Nat) (bs : List Byte) : (storeBytes a bs s).cfg = s.cfg := rfl
@[simp] theorem storeBytes_agenda (a : Nat) (bs : List Byte) : (storeBytes a bs s).agenda = s.agenda := rfl
@[simp] theorem storeBytes_readLog (a : Nat) (bs : List Byte) : (storeBytes a bs s).readLog = s.readLog := rfl
@[simp] theorem storeBytes_draw (a : Nat) (bs : List Byte) : (storeBytes a bs s).draw = s.draw := rfl

/-! ### `writeOut` -/

@[simp] theorem writeOut_cmd (bs : List Byte) : (writeOut bs s).cmd = s.cmd := rfl
@[simp] theorem writeOut_busy (bs : List Byte) : (writeOut bs s).busy = s.busy := rfl
@[simp] theorem writeOut_done (bs : List Byte) : (writeOut bs s).done = s.done := rfl
@[simp] theorem writeOut_errBusy (bs : List Byte) : (writeOut bs s).errBusy = s.errBusy := rfl
@[simp] theorem writeOut_keyValid (bs : List Byte) : (writeOut bs s).keyValid = s.keyValid := rfl
@[simp] theorem writeOut_integrity (bs : List Byte) : (writeOut bs s).integrity = s.integrity := rfl
@[simp] theorem writeOut_result (bs : List Byte) : (writeOut bs s).result = s.result := rfl
@[simp] theorem writeOut_crc (bs : List Byte) : (writeOut bs s).crc = s.crc := rfl
@[simp] theorem writeOut_rxcrc (bs : List Byte) : (writeOut bs s).rxcrc = s.rxcrc := rfl
@[simp] theorem writeOut_inLen (bs : List Byte) : (writeOut bs s).inLen = s.inLen := rfl
@[simp] theorem writeOut_outLen (bs : List Byte) : (writeOut bs s).outLen = BitVec.ofNat 8 bs.length := rfl
@[simp] theorem writeOut_passLen (bs : List Byte) : (writeOut bs s).passLen = s.passLen := rfl
@[simp] theorem writeOut_mem (bs : List Byte) : (writeOut bs s).mem = Memory.writeBytes s.mem outBase bs := rfl
@[simp] theorem writeOut_cfg (bs : List Byte) : (writeOut bs s).cfg = s.cfg := rfl
@[simp] theorem writeOut_agenda (bs : List Byte) : (writeOut bs s).agenda = s.agenda := rfl
@[simp] theorem writeOut_readLog (bs : List Byte) : (writeOut bs s).readLog = s.readLog := rfl
@[simp] theorem writeOut_draw (bs : List Byte) : (writeOut bs s).draw = s.draw := rfl

/-! ### `writeSample` -/

@[simp] theorem writeSample_cmd (x : Sample) : (writeSample x s).cmd = s.cmd := rfl
@[simp] theorem writeSample_busy (x : Sample) : (writeSample x s).busy = s.busy := rfl
@[simp] theorem writeSample_done (x : Sample) : (writeSample x s).done = s.done := rfl
@[simp] theorem writeSample_errBusy (x : Sample) : (writeSample x s).errBusy = s.errBusy := rfl
@[simp] theorem writeSample_keyValid (x : Sample) : (writeSample x s).keyValid = s.keyValid := rfl
@[simp] theorem writeSample_integrity (x : Sample) : (writeSample x s).integrity = s.integrity := rfl
@[simp] theorem writeSample_result (x : Sample) : (writeSample x s).result = s.result := rfl
@[simp] theorem writeSample_crc (x : Sample) : (writeSample x s).crc = s.crc := rfl
@[simp] theorem writeSample_rxcrc (x : Sample) : (writeSample x s).rxcrc = s.rxcrc := rfl
@[simp] theorem writeSample_inLen (x : Sample) : (writeSample x s).inLen = s.inLen := rfl
@[simp] theorem writeSample_outLen (x : Sample) : (writeSample x s).outLen = s.outLen := rfl
@[simp] theorem writeSample_passLen (x : Sample) : (writeSample x s).passLen = s.passLen := rfl
@[simp] theorem writeSample_mem (x : Sample) : (writeSample x s).mem = Memory.writeBytes s.mem sampleBase (sampleBytes x) := rfl
@[simp] theorem writeSample_cfg (x : Sample) : (writeSample x s).cfg = s.cfg := rfl
@[simp] theorem writeSample_agenda (x : Sample) : (writeSample x s).agenda = s.agenda := rfl
@[simp] theorem writeSample_readLog (x : Sample) : (writeSample x s).readLog = s.readLog := rfl
@[simp] theorem writeSample_draw (x : Sample) : (writeSample x s).draw = s.draw := rfl

/-! ### `issue` -/

@[simp] theorem issue_cmd (v : Byte) : (issue v s).cmd = v := rfl
@[simp] theorem issue_busy (v : Byte) : (issue v s).busy = true := rfl
@[simp] theorem issue_done (v : Byte) : (issue v s).done = false := rfl
@[simp] theorem issue_errBusy (v : Byte) : (issue v s).errBusy = s.errBusy := rfl
@[simp] theorem issue_keyValid (v : Byte) : (issue v s).keyValid = s.keyValid := rfl
@[simp] theorem issue_integrity (v : Byte) : (issue v s).integrity = s.integrity := rfl
@[simp] theorem issue_result (v : Byte) : (issue v s).result = s.result := rfl
@[simp] theorem issue_crc (v : Byte) : (issue v s).crc = s.crc := rfl
@[simp] theorem issue_rxcrc (v : Byte) : (issue v s).rxcrc = s.rxcrc := rfl
@[simp] theorem issue_inLen (v : Byte) : (issue v s).inLen = s.inLen := rfl
@[simp] theorem issue_outLen (v : Byte) : (issue v s).outLen = s.outLen := rfl
@[simp] theorem issue_passLen (v : Byte) : (issue v s).passLen = s.passLen := rfl
@[simp] theorem issue_mem (v : Byte) : (issue v s).mem = s.mem := rfl
@[simp] theorem issue_cfg (v : Byte) : (issue v s).cfg = s.cfg := rfl
@[simp] theorem issue_agenda (v : Byte) : (issue v s).agenda = s.agenda := rfl
@[simp] theorem issue_readLog (v : Byte) : (issue v s).readLog = s.readLog := rfl
@[simp] theorem issue_draw (v : Byte) : (issue v s).draw = s.draw := rfl

/-! ### `complete` -/

@[simp] theorem complete_cmd (c : ResultCode) : (complete c s).cmd = s.cmd := rfl
@[simp] theorem complete_busy (c : ResultCode) : (complete c s).busy = false := rfl
@[simp] theorem complete_done (c : ResultCode) : (complete c s).done = true := rfl
@[simp] theorem complete_errBusy (c : ResultCode) : (complete c s).errBusy = s.errBusy := rfl
@[simp] theorem complete_keyValid (c : ResultCode) : (complete c s).keyValid = s.keyValid := rfl
@[simp] theorem complete_integrity (c : ResultCode) : (complete c s).integrity = s.integrity := rfl
@[simp] theorem complete_result (c : ResultCode) : (complete c s).result = c.code := rfl
@[simp] theorem complete_crc (c : ResultCode) : (complete c s).crc = s.crc := rfl
@[simp] theorem complete_rxcrc (c : ResultCode) : (complete c s).rxcrc = s.rxcrc := rfl
@[simp] theorem complete_inLen (c : ResultCode) : (complete c s).inLen = s.inLen := rfl
@[simp] theorem complete_outLen (c : ResultCode) : (complete c s).outLen = s.outLen := rfl
@[simp] theorem complete_passLen (c : ResultCode) : (complete c s).passLen = s.passLen := rfl
@[simp] theorem complete_mem (c : ResultCode) : (complete c s).mem = s.mem := rfl
@[simp] theorem complete_cfg (c : ResultCode) : (complete c s).cfg = s.cfg := rfl
@[simp] theorem complete_agenda (c : ResultCode) : (complete c s).agenda = s.agenda := rfl
@[simp] theorem complete_readLog (c : ResultCode) : (complete c s).readLog = s.readLog := rfl
@[simp] theorem complete_draw (c : ResultCode) : (complete c s).draw = s.draw + 1 := rfl

/-! ### `platformReset` -/

@[simp] theorem platformReset_cmd : (platformReset s).cmd = State.reset.cmd := rfl
@[simp] theorem platformReset_busy : (platformReset s).busy = State.reset.busy := rfl
@[simp] theorem platformReset_done : (platformReset s).done = State.reset.done := rfl
@[simp] theorem platformReset_errBusy : (platformReset s).errBusy = State.reset.errBusy := rfl
@[simp] theorem platformReset_keyValid : (platformReset s).keyValid = State.reset.keyValid := rfl
@[simp] theorem platformReset_integrity : (platformReset s).integrity = State.reset.integrity := rfl
@[simp] theorem platformReset_result : (platformReset s).result = State.reset.result := rfl
@[simp] theorem platformReset_crc : (platformReset s).crc = State.reset.crc := rfl
@[simp] theorem platformReset_rxcrc : (platformReset s).rxcrc = State.reset.rxcrc := rfl
@[simp] theorem platformReset_inLen : (platformReset s).inLen = State.reset.inLen := rfl
@[simp] theorem platformReset_outLen : (platformReset s).outLen = State.reset.outLen := rfl
@[simp] theorem platformReset_passLen : (platformReset s).passLen = State.reset.passLen := rfl
@[simp] theorem platformReset_mem : (platformReset s).mem = State.reset.mem := rfl
@[simp] theorem platformReset_cfg : (platformReset s).cfg = s.cfg := rfl
@[simp] theorem platformReset_agenda : (platformReset s).agenda = s.agenda := rfl
@[simp] theorem platformReset_readLog : (platformReset s).readLog = s.readLog := rfl
@[simp] theorem platformReset_draw : (platformReset s).draw = s.draw := rfl

end Sys2Proof.Machine
end

