-- ==== Sys2Proof/Laws/Memory.lean ====
section
/-! SUPPORT. What the memory operations read and keep: read after write, the bytes of a string, the canonical form. -/

namespace Sys2Proof.Machine

/-! ### One byte -/

@[simp] theorem Memory.read_nil (a : Nat) : Memory.read [] a = none := rfl

theorem Memory.read_cons (c : Host.Cell) (m : Memory) (a : Nat) :
    Memory.read (c :: m) a = if c.1 = a then some c.2 else Memory.read m a := rfl

/-- A read after a write: the byte written, and every other address as before. -/
theorem Memory.read_write (m : Memory) (a : Nat) (v : Byte) (x : Nat) :
    Memory.read (Memory.write m a v) x = if x = a then some v else Memory.read m x := by
  induction m with
  | nil =>
    by_cases h : x = a
    · simp [Memory.write, Memory.read, h]
    · simp [Memory.write, Memory.read, h, Ne.symm h]
  | cons c m ih =>
    unfold Memory.write
    split
    · by_cases h : x = a
      · simp [Memory.read, h]
      · rw [Memory.read_cons, if_neg (Ne.symm h), if_neg h]
    · split
      · next h =>
        subst h
        by_cases h : x = c.1
        · simp [Memory.read, h]
        · simp [Memory.read, h, Ne.symm h]
      · next h =>
        by_cases hc : c.1 = x
        · subst hc
          rw [if_neg (fun hx => h hx.symm)]
          simp [Memory.read]
        · simp [Memory.read, hc, ih]

/-! ### A byte string -/

/-- A read after a string was written: the string's byte inside it, and every other address as before. -/
theorem Memory.read_writeBytes (bs : List Byte) (m : Memory) (a x : Nat) :
    Memory.read (Memory.writeBytes m a bs) x = if a ≤ x ∧ x < a + bs.length then bs[x - a]? else Memory.read m x := by
  induction bs generalizing m a with
  | nil => simp [Memory.writeBytes]
  | cons b bs ih =>
    rw [Memory.writeBytes, ih, Memory.read_write]
    by_cases h1 : x = a
    · subst h1; simp
    · by_cases h2 : a + 1 ≤ x ∧ x < a + 1 + bs.length
      · rw [if_pos h2, if_pos (by simp only [List.length_cons]; omega)]
        obtain ⟨k, rfl⟩ : ∃ k, x = a + 1 + k := ⟨x - (a + 1), by omega⟩
        have e1 : a + 1 + k - (a + 1) = k := by omega
        have e2 : a + 1 + k - a = k + 1 := by omega
        rw [e1, e2, List.getElem?_cons_succ]
      · rw [if_neg h2, if_neg h1, if_neg (by simp only [List.length_cons]; omega)]

theorem Memory.read_writeBytes_outside {bs : List Byte} {m : Memory} {a x : Nat} (h : x < a ∨ a + bs.length ≤ x) :
    Memory.read (Memory.writeBytes m a bs) x = Memory.read m x := by
  rw [Memory.read_writeBytes, if_neg (by omega)]

theorem Memory.read_writeBytes_inside {bs : List Byte} {m : Memory} {a i : Nat} (h : i < bs.length) :
    Memory.read (Memory.writeBytes m a bs) (a + i) = some bs[i] := by
  rw [Memory.read_writeBytes, if_pos (by omega), Nat.add_sub_cancel_left, List.getElem?_eq_getElem h]

/-! ### The canonical form -/

/-- Every address of the memory is above `b`. -/
def Memory.above (b : Nat) (m : Memory) : Prop := ∀ c ∈ m, b < c.1

theorem Memory.rising_cons (c : Host.Cell) (m : Memory) :
    Memory.rising (c :: m) = true ↔ Memory.above c.1 m ∧ Memory.rising m = true := by
  induction m generalizing c with
  | nil => simp [Memory.rising, Memory.above]
  | cons d m ih =>
    rw [Memory.rising, Bool.and_eq_true, decide_eq_true_eq]
    constructor
    · rintro ⟨h, hr⟩
      refine ⟨fun e he => ?_, hr⟩
      rcases List.mem_cons.1 he with rfl | he
      · exact h
      · exact Nat.lt_trans h (((ih d).1 hr).1 e he)
    · rintro ⟨h, hr⟩
      exact ⟨h d List.mem_cons_self, hr⟩

theorem Memory.mem_write {m : Memory} {a : Nat} {v : Byte} {c : Host.Cell} (h : c ∈ Memory.write m a v) :
    c = (a, v) ∨ c ∈ m := by
  induction m with
  | nil => simpa [Memory.write] using h
  | cons d m ih =>
    unfold Memory.write at h
    split at h
    · simpa using h
    · split at h
      · rcases List.mem_cons.1 h with rfl | h
        · exact .inl rfl
        · exact .inr (List.mem_cons_of_mem _ h)
      · rcases List.mem_cons.1 h with rfl | h
        · exact .inr List.mem_cons_self
        · rcases ih h with h | h
          · exact .inl h
          · exact .inr (List.mem_cons_of_mem _ h)

theorem Memory.rising_write {m : Memory} (a : Nat) (v : Byte) (h : Memory.rising m = true) :
    Memory.rising (Memory.write m a v) = true := by
  induction m with
  | nil => rfl
  | cons d m ih =>
    obtain ⟨ha, hm⟩ := (Memory.rising_cons d m).1 h
    unfold Memory.write
    split
    · next hlt =>
      refine (Memory.rising_cons _ _).2 ⟨fun c hc => ?_, h⟩
      rcases List.mem_cons.1 hc with rfl | hc
      · exact hlt
      · exact Nat.lt_trans hlt (ha c hc)
    · split
      · next heq => subst heq; exact (Memory.rising_cons _ _).2 ⟨ha, hm⟩
      · refine (Memory.rising_cons _ _).2 ⟨fun c hc => ?_, ih hm⟩
        rcases Memory.mem_write hc with rfl | hc
        · show d.1 < a
          omega
        · exact ha c hc

/-- A write to a data address keeps the canonical form. -/
theorem Memory.wf_write {m : Memory} {a : Nat} (v : Byte) (ha : (regionAt a).isData = true) (h : Memory.wf m = true) :
    Memory.wf (Memory.write m a v) = true := by
  simp only [Memory.wf, Bool.and_eq_true, List.all_eq_true] at h ⊢
  refine ⟨Memory.rising_write a v h.1, fun c hc => ?_⟩
  rcases Memory.mem_write hc with rfl | hc
  · exact ha
  · exact h.2 c hc

/-- A string written inside the data regions keeps the canonical form. -/
theorem Memory.wf_writeBytes {bs : List Byte} {m : Memory} {a : Nat}
    (ha : ∀ i, i < bs.length → (regionAt (a + i)).isData = true) (h : Memory.wf m = true) :
    Memory.wf (Memory.writeBytes m a bs) = true := by
  induction bs generalizing m a with
  | nil => rw [Memory.writeBytes]; exact h
  | cons b bs ih =>
    rw [Memory.writeBytes]
    refine ih (fun i hi => ?_) (Memory.wf_write b (by simpa using ha 0 (by simp)) h)
    have := ha (i + 1) (by simpa using hi)
    rwa [Nat.add_assoc, Nat.add_comm 1 i]

/-- Reset's memory, which lists nothing, is in the canonical form. -/
theorem Memory.wf_reset : Memory.wf State.reset.mem = true := rfl

/-! ### The address map -/

theorem regionAt_control {a : Nat} (h : a < 0x010) : regionAt a = controlRegionAt a := by rw [regionAt, if_pos h]

/-- The whole map, read from an address: which region it is in says where it lies. -/
theorem regionAt_cases (a : Nat) :
    (a < 0x008 ∧ regionAt a = controlRegionAt a)
    ∨ ((0x008 ≤ a ∧ a < 0x010 ∨ 0x028 ≤ a ∧ a < 0x030 ∨ 0x050 ≤ a ∧ a < 0x100 ∨ 0x180 ≤ a ∧ a < 0x200 ∨ 0x280 ≤ a)
        ∧ regionAt a = .reserved)
    ∨ (0x010 ≤ a ∧ a < 0x028 ∧ regionAt a = .sample)
    ∨ (0x030 ≤ a ∧ a < 0x040 ∧ regionAt a = .key)
    ∨ (0x040 ≤ a ∧ a < 0x050 ∧ regionAt a = .pass)
    ∨ (0x100 ≤ a ∧ a < 0x180 ∧ regionAt a = .inBuf)
    ∨ (0x200 ≤ a ∧ a < 0x280 ∧ regionAt a = .outBuf) := by
  by_cases h8 : a < 0x010
  · rw [regionAt_control h8]
    by_cases h0 : a < 0x008
    · exact .inl ⟨h0, rfl⟩
    · refine .inr (.inl ⟨by omega, ?_⟩)
      unfold controlRegionAt
      split <;> first | rfl | omega
  · unfold regionAt
    split_ifs <;> simp <;> omega

theorem regionAt_sample {a : Nat} (h : 0x010 ≤ a ∧ a < 0x028) : regionAt a = .sample := by
  unfold regionAt
  split_ifs <;> first | rfl | omega

theorem regionAt_key {a : Nat} (h : 0x030 ≤ a ∧ a < 0x040) : regionAt a = .key := by
  unfold regionAt
  split_ifs <;> first | rfl | omega

theorem regionAt_pass {a : Nat} (h : 0x040 ≤ a ∧ a < 0x050) : regionAt a = .pass := by
  unfold regionAt
  split_ifs <;> first | rfl | omega

theorem regionAt_inBuf {a : Nat} (h : 0x100 ≤ a ∧ a < 0x180) : regionAt a = .inBuf := by
  unfold regionAt
  split_ifs <;> first | rfl | omega

theorem regionAt_outBuf {a : Nat} (h : 0x200 ≤ a ∧ a < 0x280) : regionAt a = .outBuf := by
  unfold regionAt
  split_ifs <;> first | rfl | omega

end Sys2Proof.Machine
end

