-- ==== Sys2Proof/Laws/Ops.lean ====
section
/-! SUPPORT. For each shared operation, once: everything it can do. Provers cite these and need not unfold the operation. -/

namespace Sys2Proof.Machine

/-! ### Ending a command -/

@[simp] theorem finish_eq (c : ResultCode) (s : State) : finish c s = .next (complete c s) := rfl

theorem withKey_valid {s : State} (h : s.keyValid = true) (body : Out) : withKey s body = body := by simp [withKey, h]

theorem withKey_missing {s : State} (h : s.keyValid = false) (body : Out) : withKey s body = .next (complete .noKey s) := by simp [withKey, h]

/-- A key-using command ends with NoKey, or has a key and its body decides. -/
theorem withKey_next {s t : State} {body : Out} (h : withKey s body = .next t) :
    (s.keyValid = false ∧ t = complete .noKey s) ∨ (s.keyValid = true ∧ body = .next t) := by
  cases hk : s.keyValid with
  | false => rw [withKey_missing hk] at h; exact .inl ⟨rfl, by injection h with h; exact h.symm⟩
  | true => rw [withKey_valid hk] at h; exact .inr ⟨rfl, h⟩

theorem withInput_fits {s : State} (h : s.inLen.toNat ≤ bufSize) (body : Out) : withInput s body = body := by
  simp [withInput, Nat.not_lt.2 h]

theorem withInput_tooLong {s : State} (h : bufSize < s.inLen.toNat) (body : Out) : withInput s body = .next (complete .lengthError s) := by
  simp [withInput, h]

/-- A command that reads IN ends with LengthError, or its input fits and its body decides. -/
theorem withInput_next {s t : State} {body : Out} (h : withInput s body = .next t) :
    (bufSize < s.inLen.toNat ∧ t = complete .lengthError s) ∨ (s.inLen.toNat ≤ bufSize ∧ body = .next t) := by
  by_cases hl : bufSize < s.inLen.toNat
  · rw [withInput_tooLong hl] at h; exact .inl ⟨hl, by injection h with h; exact h.symm⟩
  · rw [withInput_fits (Nat.not_lt.1 hl)] at h; exact .inr ⟨Nat.not_lt.1 hl, h⟩

@[simp] theorem decodeFail_eq (c : ResultCode) (s : State) : decodeFail c s = .next (complete c (setIntegrity false s)) := rfl

theorem code_le_nine (c : ResultCode) : c.code.toNat ≤ 9 := by cases c <;> decide

/-! ### Operands -/

@[simp] theorem memRead_length (s : State) (a n : Nat) : (memRead s a n).length = n := by
  induction n generalizing a with
  | zero => rfl
  | succ n ih => simp [memRead, ih]

theorem memRead_getElem? (s : State) (a n i : Nat) : (memRead s a n)[i]? = if i < n then some (byteAt s (a + i)) else none := by
  induction n generalizing a i with
  | zero => simp [memRead]
  | succ n ih =>
    cases i with
    | zero => simp [memRead]
    | succ i =>
      have e : a + 1 + i = a + (i + 1) := by omega
      simp [memRead, ih, e]

theorem byteAt_defined {s : State} {a : Nat} {b : Byte} (h : Memory.read s.mem a = some b) : byteAt s a = b := by
  simp [byteAt, h]

/-- Two states see the same string where they hold the same defined bytes. -/
theorem memRead_congr {s u : State} {a b n : Nat}
    (h : ∀ i, i < n → (Memory.read s.mem (a + i)).isSome = true ∧ Memory.read u.mem (b + i) = Memory.read s.mem (a + i)) :
    memRead u b n = memRead s a n := by
  apply List.ext_getElem?
  intro i
  rw [memRead_getElem?, memRead_getElem?]
  split
  · next hi =>
    obtain ⟨hd, he⟩ := h i hi
    obtain ⟨v, hv⟩ := Option.isSome_iff_exists.1 hd
    rw [byteAt_defined hv, byteAt_defined (he.trans hv)]
  · rfl

@[simp] theorem le32_length (v : Word32) : (le32 v).length = 4 := rfl

@[simp] theorem sampleBytes_length (x : Sample) : (sampleBytes x).length = 24 := rfl

/-! ### Agents -/

/-- What a step that answers a next state did: the engine waited, or ran the latched command; the host's word was a transaction; or the platform reset. -/
theorem step_next_cases {s t : State} (h : step s = .next t) :
    (s.busy = false ∧ s.agenda = [] ∧ t = s)
    ∨ (s.busy = false ∧ ∃ rest, s.agenda = .engine :: rest ∧ t = setAgenda rest s)
    ∨ (s.busy = true ∧ s.agenda = [] ∧ exec (decodeC8 s.cmd) s = .next t)
    ∨ (s.busy = true ∧ ∃ rest, s.agenda = .engine :: rest ∧ exec (decodeC8 s.cmd) (setAgenda rest s) = .next t)
    ∨ (∃ w rest i, s.agenda = .host w :: rest ∧ decode .tw w = .ok i ∧ exec i (setAgenda rest s) = .next t)
    ∨ (∃ rest, s.agenda = .reset :: rest ∧ t = platformReset (setAgenda rest s)) := by
  unfold step nextMove at h
  split at h
  · next ha =>
    unfold engineMove at h
    split at h
    · next hb => exact .inr (.inr (.inl ⟨hb, ha, h⟩))
    · next hb => injection h with h; exact .inl ⟨by simpa using hb, ha, h.symm⟩
  · next e rest ha =>
    cases e with
    | host w =>
      simp only [move, hostMove] at h
      split at h
      · next i hd => exact .inr (.inr (.inr (.inr (.inl ⟨w, rest, i, ha, hd, h⟩))))
      · cases h
    | engine =>
      change engineMove (setAgenda rest s) = _ at h
      unfold engineMove at h
      split at h
      · next hb => exact .inr (.inr (.inr (.inl ⟨hb, rest, ha, h⟩)))
      · next hb => injection h with h; exact .inr (.inl ⟨by simpa using hb, rest, ha, h.symm⟩)
    | reset =>
      simp only [move] at h
      injection h with h
      exact .inr (.inr (.inr (.inr (.inr ⟨rest, ha, h.symm⟩))))

end Sys2Proof.Machine
end

