-- ==== Sys2Proof/Laws/Bus.lean ====
section
/-! SUPPORT. The bus operations by address: the model's map against the address ranges of Safety.lean, and everything a bus write and a bus read can do. -/

namespace Sys2Proof.Machine

/-! ### The map against the ranges -/

theorem lt_eight_cases {a : Nat} (h : a < 8) : a = 0 ∨ a = 1 ∨ a = 2 ∨ a = 3 ∨ a = 4 ∨ a = 5 ∨ a = 6 ∨ a = 7 := by omega

/-- Which region an address is in, read back as where the address lies. -/
theorem regionAt_eq_iff (a : Nat) :
    (regionAt a = .cmd ↔ a = 0x000) ∧ (regionAt a = .status ↔ a = 0x001) ∧ (regionAt a = .result ↔ a = 0x002)
    ∧ (regionAt a = .crc ↔ a = 0x003) ∧ (regionAt a = .rxcrc ↔ a = 0x004) ∧ (regionAt a = .inLen ↔ a = 0x005)
    ∧ (regionAt a = .outLen ↔ a = 0x006) ∧ (regionAt a = .passLen ↔ a = 0x007) ∧ (regionAt a = .sample ↔ SampleAddr a)
    ∧ (regionAt a = .key ↔ KeyAddr a) ∧ (regionAt a = .pass ↔ PassAddr a) ∧ (regionAt a = .inBuf ↔ InAddr a)
    ∧ (regionAt a = .outBuf ↔ OutAddr a) := by
  obtain h | hs := regionAt_cases a
  · rcases lt_eight_cases h.1 with rfl | rfl | rfl | rfl | rfl | rfl | rfl | rfl <;> decide
  have h8 : 0x008 ≤ a := by omega
  cases hr : regionAt a <;> simp only [hr, reduceCtorEq, and_false, false_or, or_false, and_true, true_iff, false_iff] at hs ⊢
  all_goals and_intros <;> omega

theorem regionAt_status_iff (a : Nat) : regionAt a = .status ↔ a = 0x001 := (regionAt_eq_iff a).2.1

/-- The model's `MayWrite`, by regions, is the list of 20_memory.md R66, by numbers. -/
theorem mayWrite_iff (op : Byte) (a : Nat) : regionAt a ∈ mayWrite (decodeC8 op) ↔ MayWriteAddr op.toNat a := by
  have key : ∀ r : Region, r ∈ mayWrite (decodeC8 op) ↔
      (r = .result ∨ (op.toNat = 1 ∧ r = .crc) ∨ (op.toNat = 2 ∧ r = .key)
        ∨ (3 ≤ op.toNat ∧ op.toNat ≤ 8 ∧ (r = .outBuf ∨ r = .outLen)) ∨ (op.toNat = 8 ∧ r = .crc)
        ∨ (op.toNat = 9 ∧ r = .sample) ∨ (op.toNat = 10 ∧ (r = .sample ∨ r = .crc ∨ r = .rxcrc))) := by
    intro r
    unfold decodeC8
    split <;> rename_i h <;> simp [h, mayWrite]
    all_goals (try cases r <;> simp)
    all_goals (simp only [imp_false] at *; omega)
  obtain ⟨_, _, c2, c3, c4, _, c6, _, cs, ck, _, _, co⟩ := regionAt_eq_iff a
  rw [key, c2, c3, c4, c6, cs, ck, co]

/-- An in-flight read, by numbers. -/
theorem inFlight_iff (s : State) (a : Nat) : inFlight s a = true ↔ s.busy = true ∧ MayWriteAddr s.cmd.toNat a := by
  rw [← mayWrite_iff]
  simp [inFlight]

/-! ### What the operations can do -/

/-- Everything a bus write can do: touch ERR_BUSY, issue, set a length register, store one byte outside KEY and OUT, or nothing. -/
theorem busWrite_cases (a : Nat) (v : Byte) (s : State) :
    (a = 0x001 ∧ busWrite a v s = statusWrite v s)
    ∨ (a ≠ 0x001 ∧ s.busy = true ∧ busWrite a v s = setErrBusy true s)
    ∨ (s.busy = false ∧ a = 0x000 ∧ busWrite a v s = issue v s)
    ∨ (s.busy = false ∧ a = 0x005 ∧ busWrite a v s = setInLen v s)
    ∨ (s.busy = false ∧ a = 0x007 ∧ busWrite a v s = setPassLen v s)
    ∨ (s.busy = false ∧ (SampleAddr a ∨ PassAddr a ∨ InAddr a) ∧ busWrite a v s = storeBytes a [v] s)
    ∨ (s.busy = false ∧ a ≠ 0x000 ∧ a ≠ 0x001 ∧ a ≠ 0x005 ∧ a ≠ 0x007 ∧ ¬ (SampleAddr a ∨ PassAddr a ∨ InAddr a) ∧ busWrite a v s = s) := by
  by_cases h1 : a = 0x001
  · exact .inl ⟨h1, by rw [busWrite, if_pos ((regionAt_status_iff a).2 h1)]⟩
  cases hb : s.busy with
  | true => exact .inr (.inl ⟨h1, rfl, by rw [busWrite, if_neg (mt (regionAt_status_iff a).1 h1), if_pos hb]⟩)
  | false =>
    have e : busWrite a v s = busWriteIdle a v s := by
      rw [busWrite, if_neg (mt (regionAt_status_iff a).1 h1), if_neg (by simp [hb])]
    rw [e, busWriteIdle]
    obtain hs | ⟨hn, hr⟩ | hs : (a < 0x008 ∧ regionAt a = controlRegionAt a)
        ∨ (¬ (SampleAddr a ∨ PassAddr a ∨ InAddr a) ∧ 0x008 ≤ a ∧ (regionAt a = .reserved ∨ regionAt a = .key ∨ regionAt a = .outBuf))
        ∨ ((SampleAddr a ∨ PassAddr a ∨ InAddr a) ∧ (regionAt a = .sample ∨ regionAt a = .pass ∨ regionAt a = .inBuf)) := by
      unfold SampleAddr PassAddr InAddr
      rcases regionAt_cases a with h | h | h | h | h | h | h
      · exact .inl h
      all_goals simp only [h, true_or, or_true, and_true, reduceCtorEq, or_false, and_false] <;> omega
    · rcases lt_eight_cases hs.1 with rfl | rfl | rfl | rfl | rfl | rfl | rfl | rfl <;>
        first | exact absurd rfl h1 | (simp [SampleAddr, PassAddr, InAddr]; rfl)
    · iterate 6 right
      exact ⟨rfl, by omega, h1, by omega, by omega, hn, by rcases hr.2 with h | h | h <;> rw [h]⟩
    · iterate 5 right
      left
      exact ⟨rfl, hs.1, by rcases hs.2 with h | h | h <;> rw [h]⟩

/-- Everything a bus read can give: a free draw in flight, STATUS, or the value held. -/
theorem busRead_cases (s : State) (a : Nat) :
    (s.busy = true ∧ MayWriteAddr s.cmd.toNat a ∧ busRead s a = Config.freeByte s.draw a)
    ∨ (a = 0x001 ∧ busRead s a = statusRead s)
    ∨ (¬ (s.busy = true ∧ MayWriteAddr s.cmd.toNat a) ∧ a ≠ 0x001 ∧ busRead s a = (held s a).getD (Config.freeByte s.draw a)) := by
  by_cases hf : inFlight s a = true
  · obtain ⟨h1, h2⟩ := (inFlight_iff s a).1 hf
    exact .inl ⟨h1, h2, by rw [busRead, if_pos hf]⟩
  by_cases h1 : a = 0x001
  · exact .inr (.inl ⟨h1, by rw [busRead, if_neg hf, if_pos ((regionAt_status_iff a).2 h1)]⟩)
  · exact .inr (.inr ⟨mt (inFlight_iff s a).2 hf, h1, by rw [busRead, if_neg hf, if_neg (mt (regionAt_status_iff a).1 h1)]⟩)

/-- Everything a write to STATUS can do. -/
theorem statusWrite_cases (v : Byte) (s : State) :
    (v.getLsbD 2 = true ∧ statusWrite v s = setErrBusy false s) ∨ (v.getLsbD 2 = false ∧ statusWrite v s = s) := by
  unfold statusWrite
  cases v.getLsbD 2
  · exact .inr ⟨rfl, rfl⟩
  · exact .inl ⟨rfl, rfl⟩

/-- The bits of STATUS (10_state.md R25, R31). -/
theorem statusByte_bits : ∀ i k e d b : Bool,
    (statusByte i k e d b).getLsbD 0 = b ∧ (statusByte i k e d b).getLsbD 1 = d ∧ (statusByte i k e d b).getLsbD 2 = e
    ∧ (statusByte i k e d b).getLsbD 3 = k ∧ (statusByte i k e d b).getLsbD 4 = i ∧ (statusByte i k e d b).toNat < 32 := by decide

end Sys2Proof.Machine
end

