-- ==== Sys2Proof/Laws/Commands.lean ====
section
/-! SUPPORT. One inversion lemma for each meaning: if it answers a next state, then one of the listed cases holds. -/

namespace Sys2Proof.Machine

theorem execCrc_next {s t : State} (h : execCrc s = .next t) :
    (bufSize < s.inLen.toNat ∧ t = complete .lengthError s)
    ∨ (s.inLen.toNat ≤ bufSize ∧ t = complete .ok (setCrc (checksum (inBytes s)) s)) := by
  rcases withInput_next h with h | ⟨hl, h⟩
  · exact .inl h
  · cases h; exact .inr ⟨hl, rfl⟩

theorem execDeriveKey_next {s t : State} (h : execDeriveKey s = .next t) :
    (s.keyValid = true ∧ t = complete .keyLocked s)
    ∨ (s.keyValid = false
        ∧ t = complete .ok (setKeyValid true (storeBytes keyBase (deriveKeyBytes s.cfg.keyFill (passBytes s)) s))) := by
  unfold execDeriveKey at h
  split at h
  · next hk => cases h; exact .inl ⟨hk, rfl⟩
  · next hk => cases h; exact .inr ⟨by simpa using hk, rfl⟩

theorem execBlockEnc_next {s t : State} (h : execBlockEnc s = .next t) :
    (s.keyValid = false ∧ t = complete .noKey s)
    ∨ (s.keyValid = true ∧ s.inLen.toNat ≠ 16 ∧ t = complete .lengthError s)
    ∨ (s.keyValid = true ∧ s.inLen.toNat = 16
        ∧ t = complete .ok (writeOut (cipherE s.cfg.cipher (keyOf s) (inBlock s)).toList s)) := by
  rcases withKey_next h with h | ⟨hk, h⟩
  · exact .inl h
  · split at h
    · next hl => cases h; exact .inr (.inl ⟨hk, hl, rfl⟩)
    · next hl => cases h; exact .inr (.inr ⟨hk, by simpa using hl, rfl⟩)

theorem execBlockDec_next {s t : State} (h : execBlockDec s = .next t) :
    (s.keyValid = false ∧ t = complete .noKey s)
    ∨ (s.keyValid = true ∧ s.inLen.toNat ≠ 16 ∧ t = complete .lengthError s)
    ∨ (s.keyValid = true ∧ s.inLen.toNat = 16
        ∧ t = complete .ok (writeOut (cipherD s.cfg.cipher (keyOf s) (inBlock s)).toList s)) := by
  rcases withKey_next h with h | ⟨hk, h⟩
  · exact .inl h
  · split at h
    · next hl => cases h; exact .inr (.inl ⟨hk, hl, rfl⟩)
    · next hl => cases h; exact .inr (.inr ⟨hk, by simpa using hl, rfl⟩)

theorem execEncrypt_next {s t : State} (h : execEncrypt s = .next t) :
    (s.keyValid = false ∧ t = complete .noKey s)
    ∨ (s.keyValid = true ∧ 128 ≤ s.inLen.toNat ∧ t = complete .lengthError s)
    ∨ (s.keyValid = true ∧ s.inLen.toNat < 128
        ∧ t = complete .ok (writeOut (encryptBytes s.cfg.cipher (keyOf s) (inBytes s)) s)) := by
  rcases withKey_next h with h | ⟨hk, h⟩
  · exact .inl h
  · rcases withInput_next h with ⟨hl, h⟩ | ⟨hl, h⟩
    · exact .inr (.inl ⟨hk, by unfold bufSize at hl; omega, h⟩)
    · unfold bufSize at hl h
      split at h
      · next hm => cases h; exact .inr (.inl ⟨hk, by omega, rfl⟩)
      · next hm => cases h; exact .inr (.inr ⟨hk, by omega, rfl⟩)

theorem execDecrypt_next {s t : State} (h : execDecrypt s = .next t) :
    (s.keyValid = false ∧ t = complete .noKey s)
    ∨ (s.keyValid = true ∧ bufSize < s.inLen.toNat ∧ t = complete .lengthError s)
    ∨ (s.keyValid = true ∧ s.inLen.toNat ≤ bufSize ∧ decryptBytes s.cfg.cipher (keyOf s) (inBytes s) = none
        ∧ t = complete .decryptFailure s)
    ∨ (s.keyValid = true ∧ s.inLen.toNat ≤ bufSize
        ∧ ∃ r, decryptBytes s.cfg.cipher (keyOf s) (inBytes s) = some r ∧ t = complete .ok (writeOut r s)) := by
  rcases withKey_next h with h | ⟨hk, h⟩
  · exact .inl h
  · rcases withInput_next h with ⟨hl, h⟩ | ⟨hl, h⟩
    · exact .inr (.inl ⟨hk, hl, h⟩)
    · split at h
      · next hd => cases h; exact .inr (.inr (.inl ⟨hk, hl, hd, rfl⟩))
      · next r hd => cases h; exact .inr (.inr (.inr ⟨hk, hl, r, hd, rfl⟩))

theorem execSerialize_next {s t : State} (h : execSerialize s = .next t) :
    t = complete .ok (writeOut (serializeSample (sampleOf s)) s) := by
  cases h; rfl

theorem execEncode_next {s t : State} (h : execEncode s = .next t) :
    (s.keyValid = false ∧ t = complete .noKey s)
    ∨ (s.keyValid = true
        ∧ t = complete .ok (setCrc (checksum (sampleCiphertext s.cfg.cipher (keyOf s) (sampleOf s)))
            (writeOut (encodeFrame s.cfg.cipher (keyOf s) (sampleOf s)) s))) := by
  rcases withKey_next h with h | ⟨hk, h⟩
  · exact .inl h
  · cases h; exact .inr ⟨hk, rfl⟩

/-- The Parse and Convert stages fail only with FormatError and ValueError. -/
theorem parsePayload_error {p : List Byte} {e : ResultCode} (h : parsePayload p = .error e) :
    e = .formatError ∨ e = .valueError := by
  simp only [parsePayload] at h
  split at h
  · cases h; exact .inl rfl
  · split at h
    · cases h; exact .inr rfl
    · cases h

theorem execParse_next {s t : State} (h : execParse s = .next t) :
    (bufSize < s.inLen.toNat ∧ t = complete .lengthError s)
    ∨ (s.inLen.toNat ≤ bufSize ∧ ∃ e, parsePayload (inBytes s) = .error e ∧ t = complete e s)
    ∨ (s.inLen.toNat ≤ bufSize ∧ ∃ x, parsePayload (inBytes s) = .ok x ∧ t = complete .ok (writeSample x s)) := by
  rcases withInput_next h with h | ⟨hl, h⟩
  · exact .inl h
  · split at h
    · next e he => cases h; exact .inr (.inl ⟨hl, e, he, rfl⟩)
    · next x hx => cases h; exact .inr (.inr ⟨hl, x, hx, rfl⟩)

theorem decodeCiphertext_next {q : List Byte} {s t : State} (h : decodeCiphertext q s = .next t) :
    (decryptStage s.cfg.cipher (keyOf s) q = none ∧ t = complete .decryptFailure (setIntegrity false s))
    ∨ (∃ p e, decryptStage s.cfg.cipher (keyOf s) q = some p ∧ parsePayload p = .error e
        ∧ t = complete e (setIntegrity false s))
    ∨ (∃ p x, decryptStage s.cfg.cipher (keyOf s) q = some p ∧ parsePayload p = .ok x
        ∧ t = complete .ok (setIntegrity true (writeSample x s))) := by
  unfold decodeCiphertext at h
  split at h
  · next hd => cases h; exact .inl ⟨hd, rfl⟩
  · next p hd =>
    split at h
    · next e he => cases h; exact .inr (.inl ⟨p, e, hd, he, rfl⟩)
    · next x hx => cases h; exact .inr (.inr ⟨p, x, hd, hx, rfl⟩)

/-- The state once the Integrity stage has written CRC and RXCRC (45_decoder.md R262). -/
def afterIntegrity (f : List Byte) (s : State) : State :=
  setRxcrc (f.getD (f.length - 1) 0) (setCrc (checksum (f.take (f.length - 1))) s)

theorem decodeFrame_next {f : List Byte} {s t : State} (h : decodeFrame f s = .next t) :
    (f.getD (f.length - 1) 0 ≠ checksum (f.take (f.length - 1))
        ∧ t = complete .crcMismatch (setIntegrity false (afterIntegrity f s)))
    ∨ (f.getD (f.length - 1) 0 = checksum (f.take (f.length - 1))
        ∧ decodeCiphertext (f.take (f.length - 1)) (afterIntegrity f s) = .next t) := by
  simp only [decodeFrame] at h
  split at h
  · next hr => cases h; exact .inl ⟨hr, rfl⟩
  · next hr => exact .inr ⟨by simpa using hr, h⟩

theorem execDecode_next {s t : State} (h : execDecode s = .next t) :
    (s.keyValid = false ∧ t = complete .noKey (setIntegrity false s))
    ∨ (s.keyValid = true ∧ bufSize < s.inLen.toNat ∧ t = complete .lengthError (setIntegrity false s))
    ∨ (s.keyValid = true ∧ s.inLen.toNat < minFrame ∧ t = complete .shortFrame (setIntegrity false s))
    ∨ (s.keyValid = true ∧ minFrame ≤ s.inLen.toNat ∧ s.inLen.toNat ≤ bufSize ∧ decodeFrame (inBytes s) s = .next t) := by
  unfold execDecode at h
  split at h
  · next hk => cases h; exact .inl ⟨by simpa using hk, rfl⟩
  · next hk =>
    have hk : s.keyValid = true := by simpa using hk
    split at h
    · next hl => cases h; exact .inr (.inl ⟨hk, hl, rfl⟩)
    · next hl =>
      split at h
      · next hm => cases h; exact .inr (.inr (.inl ⟨hk, hm, rfl⟩))
      · next hm => exact .inr (.inr (.inr ⟨hk, Nat.not_lt.1 hm, Nat.not_lt.1 hl, h⟩))

/-- A bus write always completes. -/
theorem execBusWr_next {a : Addr} {v : Byte} {s t : State} (h : execBusWr a v s = .next t) : t = busWrite a.toNat v s := by
  cases h; rfl

/-- A bus read always completes, and changes only the host's log and the draw number. -/
theorem execBusRd_next {a : Addr} {s t : State} (h : execBusRd a s = .next t) :
    t = nextDraw (logRead a (busRead s a.toNat) s) := by
  cases h; rfl

end Sys2Proof.Machine
end

