-- ==== Sys2Proof/Laws/Codec.lean ====
section
/-! SUPPORT. What the pure functions of the units do, once for each: blocks, decimal digits, splitting, conversion, the Decrypt stage. -/

namespace Sys2Proof.Machine

/-! ### Blocks -/

theorem toBlock_toList (bs : List Byte) (h : bs.length = 16) : (toBlock bs).toList = bs := by
  apply List.ext_getElem
  · simp [h]
  · intro i h1 h2
    simp [toBlock, h2]

theorem toList_toBlock (b : Block) : toBlock b.toList = b := by
  apply Vector.ext
  intro i hi
  simp [toBlock]

theorem ecbBlocks_length (f : Block → Block) (n : Nat) (bs : List Byte) : (ecbBlocks f n bs).length = 16 * n := by
  induction n generalizing bs with
  | zero => simp [ecbBlocks]
  | succ n ih => simp [ecbBlocks, ih]; omega

/-- Blocks through `f` and then through an inverse of `f` come back. -/
theorem ecbBlocks_inverse {f g : Block → Block} (hfg : ∀ b, g (f b) = b) (n : Nat) (bs : List Byte) (h : bs.length = 16 * n) :
    ecbBlocks g n (ecbBlocks f n bs) = bs := by
  induction n generalizing bs with
  | zero => simpa [ecbBlocks] using h
  | succ n ih =>
    have l : (f (toBlock (bs.take 16))).toList.length = 16 := by simp
    simp only [ecbBlocks]
    rw [List.take_append_of_le_length (by omega), List.take_of_length_le (by omega), toList_toBlock, hfg,
      toBlock_toList _ (by simp; omega), List.drop_append_of_le_length (by omega), List.drop_of_length_le (by omega),
      List.nil_append, ih _ (by simp; omega), List.take_append_drop]

/-! ### Digits -/

/-- A digit byte, and what the decoder makes of it. -/
theorem digitByte_value {d : Nat} (h : d < 10) :
    digitValue (digitByte d) = some d ∧ 0x30 ≤ (digitByte d).toNat ∧ (digitByte d).toNat ≤ 0x39 ∧ (digitByte d).toNat - 0x30 = d := by
  interval_cases d <;> decide

/-- The digits are read to their decimal value, when all of them are digits. -/
theorem digitsFrom_eq (bs : List Byte) (acc : Nat) :
    digitsFrom acc bs
      = if ∀ b ∈ bs, 0x30 ≤ b.toNat ∧ b.toNat ≤ 0x39 then some (bs.foldl (fun n b => 10 * n + (b.toNat - 0x30)) acc) else none := by
  induction bs generalizing acc with
  | nil => simp [digitsFrom]
  | cons b bs ih =>
    simp only [digitsFrom, digitValue]
    by_cases hb : 0x30 ≤ b.toNat ∧ b.toNat ≤ 0x39
    · rw [if_pos hb]
      simp only [ih, List.foldl_cons, List.forall_mem_cons, hb, and_self, true_and]
    · rw [if_neg hb, if_neg (fun h => hb (h b List.mem_cons_self))]

/-! ### Splitting and conversion -/

theorem splitBytes_ne_nil (d : Byte) (bs : List Byte) : splitBytes d bs ≠ [] := by
  cases bs with
  | nil => simp [splitBytes]
  | cons b bs =>
    simp only [splitBytes]
    split
    · simp
    · split <;> simp

/-- A token without the delimiter, up to the first delimiter. -/
theorem splitBytes_append {d : Byte} {t : List Byte} (rest : List Byte) (h : d ∉ t) :
    splitBytes d (t ++ d :: rest) = t :: splitBytes d rest := by
  induction t with
  | nil => simp [splitBytes]
  | cons b t ih =>
    simp only [List.mem_cons, not_or] at h
    simp only [List.cons_append, splitBytes, if_neg (Ne.symm h.1), ih h.2]

theorem splitBytes_single {d : Byte} {t : List Byte} (h : d ∉ t) : splitBytes d t = [t] := by
  induction t with
  | nil => simp [splitBytes]
  | cons b t ih =>
    simp only [List.mem_cons, not_or] at h
    simp only [splitBytes, if_neg (Ne.symm h.1), ih h.2]

theorem convertIn_eq_some {lo hi : Int} {t : List Byte} {w : Word32} :
    convertIn lo hi t = some w ↔ ∃ v, literalValue t = some v ∧ lo ≤ v ∧ v ≤ hi ∧ BitVec.ofInt 32 v = w := by
  unfold convertIn
  split
  · next h => simp [h]
  · next v h => simp [h]; tauto

/-! ### The Decrypt stage -/

theorem decryptStage_eq_some {c : Config.CipherChoice} {k : Key} {q p : List Byte} :
    decryptStage c k q = some p ↔ decryptBytes c k q = some p ∧ ∀ b ∈ p, b.toNat < 0x80 := by
  unfold decryptStage
  split
  · next h => simp [h]
  · next r h =>
    rw [h]
    split
    · next h' => simp at h' ⊢; rintro rfl; simpa using h'
    · next h' => simp at h' ⊢; rintro rfl; simpa using h'

theorem decryptStage_eq_none {c : Config.CipherChoice} {k : Key} {q : List Byte} :
    decryptStage c k q = none ↔ decryptBytes c k q = none ∨ ∃ p, decryptBytes c k q = some p ∧ ∃ b ∈ p, 0x80 ≤ b.toNat := by
  unfold decryptStage
  split
  · next h => simp [h]
  · next r h =>
    rw [h]
    split
    · next h' => simpa using h'
    · next h' => simp at h' ⊢; exact h'

end Sys2Proof.Machine
end

