-- ==== Sys2Proof/Laws/PerInstr.lean ====
section
/-! SUPPORT. Facts about every instruction as syntax, one lemma for each constructor. -/

namespace Sys2Proof.Laws.EncodeWidth

/-- The bound on a word of a format (30_encoding.md R90). -/
def bound : Format → Nat
  | .c8 => 2 ^ 8
  | .tw => 2 ^ 19

/-- The word of an instruction fits its format: 8 bits for a command, 19 for a transaction (30_encoding.md R90, R94). -/
abbrev Statement (i : Instr) : Prop := Sys2Proof.encode i < bound i.format

theorem nop : Statement .nop := by decide
theorem crc : Statement .crc := by decide
theorem deriveKey : Statement .deriveKey := by decide
theorem blockEnc : Statement .blockEnc := by decide
theorem blockDec : Statement .blockDec := by decide
theorem encrypt : Statement .encrypt := by decide
theorem decrypt : Statement .decrypt := by decide
theorem serialize : Statement .serialize := by decide
theorem encode : Statement .encode := by decide
theorem parse : Statement .parse := by decide
theorem decode : Statement .decode := by decide
theorem illegal (op : Byte) : Statement (.illegal op) := op.isLt
theorem busWr (a : Addr) (v : Byte) : Statement (.busWr a v) := by
  have := a.isLt
  have := v.isLt
  show 0x40000 + a.toNat * 2 ^ 8 + v.toNat < 2 ^ 19
  omega
theorem busRd (a : Addr) : Statement (.busRd a) := by
  have := a.isLt
  show a.toNat * 2 ^ 8 < 2 ^ 19
  omega

end Sys2Proof.Laws.EncodeWidth
end

