-- ==== Sys2Proof/Tests/Slice0.lean ====
section
/-! SUPPORT. The model's own tests: decoding by words written out from 30_encoding.md, one-step tests whose expected results are spec/95_test_vectors.md's, and a witness for the hypotheses of every obligation. -/

namespace Sys2Proof.Tests

open Machine

/-! ### Helpers -/

/-- A field of the next state, or `none` where the step stops. -/
def look {α : Type} (f : State → α) : Out → Option α
  | .next t => some (f t)
  | .fault _ => none
  | .refused _ => none

/-- The next state of an outcome, or `d` where it stops. -/
def after (d : State) : Out → State
  | .next t => t
  | .fault _ => d
  | .refused _ => d

def answersNext (o : Out) : Bool := (look (fun _ => true) o).getD false

theorem eq_next {d : State} {o : Out} (h : answersNext o = true) : o = .next (after d o) := by
  cases o with
  | next t => rfl
  | fault r => cases h
  | refused r => cases h

/-- The reference instantiation RI after reset. -/
def base : State := { State.reset with cfg := Config.Params.reference }

/-- `bs` in IN, and IN_LEN its length. -/
def withIn (bs : List Byte) (s : State) : State := setInLen (BitVec.ofNat 8 bs.length) (storeBytes inBase bs s)

/-- `k` in KEY, and KEY_VALID = 1. -/
def withK (k : List Byte) (s : State) : State := setKeyValid true (storeBytes keyBase k s)

/-- `bs` in PASS, and PASS_LEN = `n`. -/
def withPass (bs : List Byte) (n : Byte) (s : State) : State := setPassLen n (storeBytes passBase bs s)

def outOf (s : State) : List Byte := memRead s outBase s.outLen.toNat

/-- "key cat" of 95_test_vectors.md. -/
def cat : List Byte := [0x63, 0x61, 0x74, 0x20, 0x20, 0x20, 0x20, 0x20, 0x20, 0x20, 0x20, 0x20, 0x20, 0x20, 0x20, 0x20]

/-- The S10 frame of 95_test_vectors.md. -/
def frameS10 : List Byte := [0xDF, 0xC2, 0x03, 0xAD, 0x51, 0x0F, 0x86, 0x33, 0x1B, 0x10, 0xA3, 0xB2, 0x1D, 0x2B, 0xF5, 0xAA, 0xDC, 0x9F, 0x9D, 0x38, 0x93, 0x59, 0xA8, 0x5F, 0x8D, 0x2B, 0xAF, 0xA9, 0x01, 0x98, 0x2E, 0xFA, 0x48]
/-- D4: its bit 0 flipped. -/
def frameD4 : List Byte := [0xDE, 0xC2, 0x03, 0xAD, 0x51, 0x0F, 0x86, 0x33, 0x1B, 0x10, 0xA3, 0xB2, 0x1D, 0x2B, 0xF5, 0xAA, 0xDC, 0x9F, 0x9D, 0x38, 0x93, 0x59, 0xA8, 0x5F, 0x8D, 0x2B, 0xAF, 0xA9, 0x01, 0x98, 0x2E, 0xFA, 0x48]
def sampleS10 : Sample := ⟨1000, 25, 1000, 50, 2, 100⟩

/-! ### Well-formedness: the check, and an ill-formed term that it refuses -/

theorem test_wellFormed_illegal_first : (Instr.illegal 0x0B).wellFormed = true := by decide
theorem test_wellFormed_illegal_refuses_a_command : (Instr.illegal 0x0A).wellFormed = false := by decide
theorem test_wellFormed_illegal_refuses_zero : (Instr.illegal 0x00).wellFormed = false := by decide

/-! ### Decoding, by words written out from 30_encoding.md R90, R92 and R93 -/

theorem test_decode_nop : decode .c8 0b00000000 = .ok .nop := by decide
theorem test_decode_crc : decode .c8 0b00000001 = .ok .crc := by decide
theorem test_decode_deriveKey : decode .c8 0b00000010 = .ok .deriveKey := by decide
theorem test_decode_blockEnc : decode .c8 0b00000011 = .ok .blockEnc := by decide
theorem test_decode_blockDec : decode .c8 0b00000100 = .ok .blockDec := by decide
theorem test_decode_encrypt : decode .c8 0b00000101 = .ok .encrypt := by decide
theorem test_decode_decrypt : decode .c8 0b00000110 = .ok .decrypt := by decide
theorem test_decode_serialize : decode .c8 0b00000111 = .ok .serialize := by decide
theorem test_decode_encode : decode .c8 0b00001000 = .ok .encode := by decide
theorem test_decode_parse : decode .c8 0b00001001 = .ok .parse := by decide
theorem test_decode_decode : decode .c8 0b00001010 = .ok .decode := by decide
theorem test_decode_illegal : decode .c8 0b00001011 = .ok (.illegal 0x0B) ∧ decode .c8 0b11111111 = .ok (.illegal 0xFF) := by decide
/-- W = 1, A = 01 0000 0000, V = 0011 0001. -/
theorem test_decode_busWr : decode .tw 0b1_0100000000_00110001 = .ok (.busWr 0x100 0x31) := by decide
/-- W = 0, A = 00 0000 0011, V = 0. -/
theorem test_decode_busRd : decode .tw 0b0_0000000011_00000000 = .ok (.busRd 0x003) := by decide
theorem test_decode_last_addresses : decode .tw 0x7FFFF = .ok (.busWr 0x3FF 0xFF) ∧ decode .tw 0x3FF00 = .ok (.busRd 0x3FF) := by decide
theorem test_decode_read_with_data_refused : decode .tw 0x00301 = .error .readCarriesData := by decide
theorem test_decode_wide_words_refused : decode .tw 0x80000 = .error .wordTooWide ∧ decode .c8 0x100 = .error .wordTooWide := by decide
theorem test_encode_words : encode .decode = 0x0A ∧ encode (.busWr 0x005 0x09) = 0x40509 ∧ encode (.busRd 0x003) = 0x00300 := by decide

/-- A row of spec/opcode_table.json: format, match and mask, and whether an instruction is of the row. -/
structure Row where
  format : Format
  pattern : Nat
  mask : Nat
  deriving DecidableEq, Repr

/-- The rows of spec/opcode_table.json. -/
def tableRows : List Row :=
  [⟨.c8, 0x00, 0xFF⟩, ⟨.c8, 0x01, 0xFF⟩, ⟨.c8, 0x02, 0xFF⟩, ⟨.c8, 0x03, 0xFF⟩, ⟨.c8, 0x04, 0xFF⟩, ⟨.c8, 0x05, 0xFF⟩, ⟨.c8, 0x06, 0xFF⟩]
    ++ [⟨.c8, 0x07, 0xFF⟩, ⟨.c8, 0x08, 0xFF⟩, ⟨.c8, 0x09, 0xFF⟩, ⟨.c8, 0x0A, 0xFF⟩, ⟨.c8, 0x0B, 0xFF⟩, ⟨.c8, 0x0C, 0xFC⟩, ⟨.c8, 0x10, 0xF0⟩]
    ++ [⟨.c8, 0x20, 0xE0⟩, ⟨.c8, 0x40, 0xC0⟩, ⟨.c8, 0x80, 0x80⟩, ⟨.tw, 0x40000, 0x40000⟩, ⟨.tw, 0x00000, 0x400FF⟩]

/-- No two rows of one format share a word: on some bit of both masks they differ. -/
theorem test_table_rows_disjoint :
    tableRows.Pairwise (fun r q => r.format ≠ q.format ∨ r.pattern &&& (r.mask &&& q.mask) ≠ q.pattern &&& (r.mask &&& q.mask)) := by decide

/-- Every row's own word decodes. -/
theorem test_table_rows_decode : (tableRows.all fun r => (decode r.format r.pattern).toBool) = true := by decide

/-- Every command byte runs as the first step after reset. -/
theorem test_every_byte_runs_first : ∀ op : Fin 256, answersNext (step (State.reset.withFetchWord 8 op.val)) = true := by decide +kernel

/-- A transaction word runs as the first step after reset: IN_LEN = 9. -/
theorem test_transaction_runs_first : look (fun t => t.inLen) (step (State.reset.withFetchWord 24 0x40509)) = some 0x09 := by decide

/-- A malformed word is refused by name. -/
theorem test_malformed_word_refused : look (fun _ => true) (step (State.reset.withFetchWord 24 0x00301)) = none := by decide

/-! ### The bus -/

/-- SAMPLE_ID byte 1 of program P2: `WR 0x011, 0x03`. -/
theorem test_busWr_sample_byte : look (fun t => (Memory.read t.mem 0x011, Memory.read t.mem 0x010)) (exec (.busWr 0x011 0x03) base) = some (some 0x03, none) := by decide +kernel
/-- 95_test_vectors.md 2.9: a write to IN_LEN while BUSY = 1 is dropped and sets ERR_BUSY. -/
theorem test_busWr_dropped_while_busy : look (fun t => (t.inLen, t.errBusy)) (exec (.busWr 0x005 0x10) (issue 0x00 base)) = some (0x00, true) := by decide
/-- 95_test_vectors.md P3: STATUS `0E` is DONE, ERR_BUSY and KEY_VALID. -/
theorem test_busRd_status : look (fun t => t.readLog) (exec (.busRd 0x001) { base with done := true, errBusy := true, keyValid := true }) = some [(0x001, 0x0E)] := by decide
/-- 95_test_vectors.md 2.9: a reserved address reads `00`. -/
theorem test_busRd_reserved : look (fun t => t.readLog) (exec (.busRd 0x008) base) = some [(0x008, 0x00)] := by decide

/-! ### The commands (95_test_vectors.md, sections 2.1 to 2.9) -/

theorem test_nop : look (fun t => (t.result, t.busy, t.done)) (exec .nop (issue 0x00 base)) = some (0x00, false, true) := by decide
theorem test_illegal : look (fun t => (t.result, t.busy, t.cmd)) (exec (.illegal 0x0B) (issue 0x0B base)) = some (0x09, false, 0x0B) := by decide
theorem test_crc : look (fun t => (t.result, t.crc)) (exec .crc (withIn [0x31, 0x32, 0x33, 0x34, 0x35, 0x36, 0x37, 0x38, 0x39] base)) = some (0x00, 0xF4) := by decide +kernel
theorem test_crc_too_long : look (fun t => (t.result, t.crc)) (exec .crc (setInLen 129 (setCrc 0x55 base))) = some (0x08, 0x55) := by decide
/-- PASS_LEN = 20 is cut to 16. -/
theorem test_deriveKey_cut : look (fun t => (t.result, t.keyValid, memRead t keyBase 16)) (exec .deriveKey (withPass [0x30, 0x31, 0x32, 0x33, 0x34, 0x35, 0x36, 0x37, 0x38, 0x39, 0x41, 0x42, 0x43, 0x44, 0x45, 0x46] 20 base)) = some (0x00, true, [0x30, 0x31, 0x32, 0x33, 0x34, 0x35, 0x36, 0x37, 0x38, 0x39, 0x41, 0x42, 0x43, 0x44, 0x45, 0x46]) := by decide +kernel
theorem test_deriveKey_fill : look (fun t => memRead t keyBase 16) (exec .deriveKey (withPass [0x63, 0x61, 0x74] 3 base)) = some cat := by decide +kernel
/-- FIPS-197 Appendix C.1. -/
theorem test_blockEnc : look outOf (exec .blockEnc (withIn [0x00, 0x11, 0x22, 0x33, 0x44, 0x55, 0x66, 0x77, 0x88, 0x99, 0xAA, 0xBB, 0xCC, 0xDD, 0xEE, 0xFF] (withK [0x00, 0x01, 0x02, 0x03, 0x04, 0x05, 0x06, 0x07, 0x08, 0x09, 0x0A, 0x0B, 0x0C, 0x0D, 0x0E, 0x0F] base))) = some [0x69, 0xC4, 0xE0, 0xD8, 0x6A, 0x7B, 0x04, 0x30, 0xD8, 0xCD, 0xB7, 0x80, 0x70, 0xB4, 0xC5, 0x5A] := by decide +kernel
/-- NoKey is checked before the length. -/
theorem test_blockEnc_no_key : look (fun t => t.result) (exec .blockEnc (setInLen 15 base)) = some 0x06 := by decide
theorem test_blockDec : look outOf (exec .blockDec (withIn [0x69, 0xC4, 0xE0, 0xD8, 0x6A, 0x7B, 0x04, 0x30, 0xD8, 0xCD, 0xB7, 0x80, 0x70, 0xB4, 0xC5, 0x5A] (withK [0x00, 0x01, 0x02, 0x03, 0x04, 0x05, 0x06, 0x07, 0x08, 0x09, 0x0A, 0x0B, 0x0C, 0x0D, 0x0E, 0x0F] base))) = some [0x00, 0x11, 0x22, 0x33, 0x44, 0x55, 0x66, 0x77, 0x88, 0x99, 0xAA, 0xBB, 0xCC, 0xDD, 0xEE, 0xFF] := by decide +kernel
theorem test_blockDec_length : look (fun t => (t.result, t.outLen)) (exec .blockDec (setInLen 17 (setKeyValid true base))) = some (0x08, 0x00) := by decide
theorem test_encrypt_empty : look outOf (exec .encrypt (withK cat base)) = some [0x31, 0x90, 0xE3, 0x16, 0x34, 0x1D, 0xE6, 0x46, 0x83, 0x22, 0x2B, 0xB0, 0x5C, 0x31, 0xC1, 0x18] := by decide +kernel
theorem test_encrypt_limit : look (fun t => (t.result, t.outLen)) (exec .encrypt (setInLen 128 (withK cat base))) = some (0x08, 0x00) := by decide +kernel
theorem test_decrypt : look outOf (exec .decrypt (withIn [0xB5, 0xCC, 0x5A, 0x2D, 0x88, 0x31, 0x7E, 0x2E, 0x4E, 0x83, 0xA5, 0xCA, 0x9F, 0xDD, 0xA8, 0xBF] (withK cat base))) = some [0x41, 0x41, 0x41, 0x41, 0x41, 0x41, 0x41, 0x41, 0x41, 0x41, 0x41, 0x41, 0x41] := by decide +kernel
theorem test_decrypt_bad_padding : look (fun t => (t.result, t.outLen)) (exec .decrypt (withIn [0x00, 0x29, 0xAE, 0xE0, 0x1A, 0xE5, 0x71, 0xB9, 0xBE, 0x09, 0x24, 0xF6, 0x4B, 0x05, 0x67, 0x50] (withK cat base))) = some (0x03, 0x00) := by decide +kernel
theorem test_serialize : look outOf (exec .serialize (writeSample ⟨7, -1, 2147483647, -30, 0, 9⟩ base)) = some [0x37, 0x2C, 0x2D, 0x31, 0x2C, 0x32, 0x31, 0x34, 0x37, 0x34, 0x38, 0x33, 0x36, 0x34, 0x37, 0x2C, 0x2D, 0x33, 0x30, 0x2C, 0x30, 0x2C, 0x39] := by decide +kernel
/-- The register bytes of SAMPLE_F0 = `00 00 00 80` serialize as "-2147483648". -/
theorem test_serialize_least : look outOf (exec .serialize (storeBytes 0x014 [0x00, 0x00, 0x00, 0x80] (writeSample ⟨0, 0, 0, 0, 0, 0⟩ base))) = some [0x30, 0x2C, 0x2D, 0x32, 0x31, 0x34, 0x37, 0x34, 0x38, 0x33, 0x36, 0x34, 0x38, 0x2C, 0x30, 0x2C, 0x30, 0x2C, 0x30, 0x2C, 0x30] := by decide +kernel
theorem test_encode : look (fun t => (outOf t, t.crc)) (exec .encode (writeSample ⟨0, 0, 0, 0, 0, 0⟩ (withK cat base))) = some ([0x95, 0xBB, 0xBD, 0x52, 0xDC, 0xDA, 0x5F, 0x8F, 0xBB, 0x37, 0xBA, 0xA3, 0xBA, 0x80, 0x15, 0xB2, 0x1F], 0x1F) := by decide +kernel
theorem test_encode_no_key : look (fun t => (t.result, t.outLen)) (exec .encode base) = some (0x06, 0x00) := by decide
theorem test_parse : look (fun t => (t.result, sampleOf t)) (exec .parse (withIn [0x2D, 0x30, 0x2C, 0x31, 0x2C, 0x32, 0x2C, 0x33, 0x2C, 0x34, 0x2C, 0x35] base)) = some (0x00, ⟨0, 1, 2, 3, 4, 5⟩) := by decide +kernel
/-- PARSE has no ASCII stage: `C3` is no digit. -/
theorem test_parse_non_digit : look (fun t => (t.result, t.mem)) (exec .parse (withIn ([0x31, 0x2C, 0x32, 0x2C, 0x33, 0x2C, 0x34, 0x2C, 0x35, 0x2C] ++ [0xC3, 0xA9]) base)) = some (0x05, (withIn ([0x31, 0x2C, 0x32, 0x2C, 0x33, 0x2C, 0x34, 0x2C, 0x35, 0x2C] ++ [0xC3, 0xA9]) base).mem) := by decide +kernel
/-- D3. -/
theorem test_decode : look (fun t => (t.result, t.crc, t.rxcrc, t.integrity, sampleOf t)) (exec .decode (withIn frameS10 (withK cat base))) = some (0x00, 0x48, 0x48, true, sampleS10) := by decide +kernel
/-- D4, with INTEGRITY = 1 before. -/
theorem test_decode_flipped_bit : look (fun t => (t.result, t.crc, t.rxcrc, t.integrity)) (exec .decode (setIntegrity true (withIn frameD4 (withK cat base)))) = some (0x02, 0x4C, 0x48, false) := by decide +kernel

/-! ### Tables and functions of the spec -/

/-- Row `h` of the table of 41_checksum.md R144. -/
def crcRow : Nat → List Byte
  | 0 => [0x00, 0x07, 0x0E, 0x09, 0x1C, 0x1B, 0x12, 0x15, 0x38, 0x3F, 0x36, 0x31, 0x24, 0x23, 0x2A, 0x2D]
  | 1 => [0x70, 0x77, 0x7E, 0x79, 0x6C, 0x6B, 0x62, 0x65, 0x48, 0x4F, 0x46, 0x41, 0x54, 0x53, 0x5A, 0x5D]
  | 2 => [0xE0, 0xE7, 0xEE, 0xE9, 0xFC, 0xFB, 0xF2, 0xF5, 0xD8, 0xDF, 0xD6, 0xD1, 0xC4, 0xC3, 0xCA, 0xCD]
  | 3 => [0x90, 0x97, 0x9E, 0x99, 0x8C, 0x8B, 0x82, 0x85, 0xA8, 0xAF, 0xA6, 0xA1, 0xB4, 0xB3, 0xBA, 0xBD]
  | 4 => [0xC7, 0xC0, 0xC9, 0xCE, 0xDB, 0xDC, 0xD5, 0xD2, 0xFF, 0xF8, 0xF1, 0xF6, 0xE3, 0xE4, 0xED, 0xEA]
  | 5 => [0xB7, 0xB0, 0xB9, 0xBE, 0xAB, 0xAC, 0xA5, 0xA2, 0x8F, 0x88, 0x81, 0x86, 0x93, 0x94, 0x9D, 0x9A]
  | 6 => [0x27, 0x20, 0x29, 0x2E, 0x3B, 0x3C, 0x35, 0x32, 0x1F, 0x18, 0x11, 0x16, 0x03, 0x04, 0x0D, 0x0A]
  | 7 => [0x57, 0x50, 0x59, 0x5E, 0x4B, 0x4C, 0x45, 0x42, 0x6F, 0x68, 0x61, 0x66, 0x73, 0x74, 0x7D, 0x7A]
  | 8 => [0x89, 0x8E, 0x87, 0x80, 0x95, 0x92, 0x9B, 0x9C, 0xB1, 0xB6, 0xBF, 0xB8, 0xAD, 0xAA, 0xA3, 0xA4]
  | 9 => [0xF9, 0xFE, 0xF7, 0xF0, 0xE5, 0xE2, 0xEB, 0xEC, 0xC1, 0xC6, 0xCF, 0xC8, 0xDD, 0xDA, 0xD3, 0xD4]
  | 10 => [0x69, 0x6E, 0x67, 0x60, 0x75, 0x72, 0x7B, 0x7C, 0x51, 0x56, 0x5F, 0x58, 0x4D, 0x4A, 0x43, 0x44]
  | 11 => [0x19, 0x1E, 0x17, 0x10, 0x05, 0x02, 0x0B, 0x0C, 0x21, 0x26, 0x2F, 0x28, 0x3D, 0x3A, 0x33, 0x34]
  | 12 => [0x4E, 0x49, 0x40, 0x47, 0x52, 0x55, 0x5C, 0x5B, 0x76, 0x71, 0x78, 0x7F, 0x6A, 0x6D, 0x64, 0x63]
  | 13 => [0x3E, 0x39, 0x30, 0x37, 0x22, 0x25, 0x2C, 0x2B, 0x06, 0x01, 0x08, 0x0F, 0x1A, 0x1D, 0x14, 0x13]
  | 14 => [0xAE, 0xA9, 0xA0, 0xA7, 0xB2, 0xB5, 0xBC, 0xBB, 0x96, 0x91, 0x98, 0x9F, 0x8A, 0x8D, 0x84, 0x83]
  | 15 => [0xDE, 0xD9, 0xD0, 0xD7, 0xC2, 0xC5, 0xCC, 0xCB, 0xE6, 0xE1, 0xE8, 0xEF, 0xFA, 0xFD, 0xF4, 0xF3]
  | _ => []

/-- The table form of the step (R144). -/
theorem test_crc_table : ∀ x : Byte, crc8Step 0x00 x = (crcRow (x.toNat / 16)).getD (x.toNat % 16) 0 := by decide +kernel

/-- The check values of 43_cipher_aes128_reference.md R202. -/
theorem test_gmul : gmul 0x57 0x83 = 0xC1 ∧ gmul 0x57 0x13 = 0xFE := by decide

/-- A candidate for the inverse of `a` in GF(2^8): the S-box's affine map undone. -/
def inverse (a : Byte) : Byte := (sbox a).rotateLeft 1 ^^^ (sbox a).rotateLeft 3 ^^^ (sbox a).rotateLeft 6 ^^^ 0x05

/-- The S-box is its definition (R202, R203): the candidate is the inverse, 0 for 0, and the S-box is the affine map of it. -/
theorem test_sbox_definition : ∀ a : Byte,
    gmul a (inverse a) = (if a = 0 then 0 else 0x01) ∧ (a = 0 → inverse a = 0)
      ∧ sbox a = inverse a ^^^ (inverse a).rotateLeft 1 ^^^ (inverse a).rotateLeft 2 ^^^ (inverse a).rotateLeft 3 ^^^ (inverse a).rotateLeft 4 ^^^ 0x63 := by decide +kernel

/-- `INV_SBOX[SBOX[a]] = a` (R204). -/
theorem test_invSbox : ∀ a : Byte, invSbox (sbox a) = a := by decide +kernel

theorem test_roundConstants : (List.range 10).map (fun j => roundConstant (j + 1)) = [0x01, 0x02, 0x04, 0x08, 0x10, 0x20, 0x40, 0x80, 0x1B, 0x36] := by decide

/-- The check values of R205. -/
theorem test_roundKeys :
    let k : Key := #v[0x2B, 0x7E, 0x15, 0x16, 0x28, 0xAE, 0xD2, 0xA6, 0xAB, 0xF7, 0x15, 0x88, 0x09, 0xCF, 0x4F, 0x3C]
    roundKey k 1 = ⟨⟨0xA0, 0xFA, 0xFE, 0x17⟩, ⟨0x88, 0x54, 0x2C, 0xB1⟩, ⟨0x23, 0xA3, 0x39, 0x39⟩, ⟨0x2A, 0x6C, 0x76, 0x05⟩⟩
      ∧ roundKey k 10 = ⟨⟨0xD0, 0x14, 0xF9, 0xA8⟩, ⟨0xC9, 0xEE, 0x25, 0x89⟩, ⟨0xE1, 0x3F, 0x0C, 0xC8⟩, ⟨0xB6, 0x63, 0x0C, 0xA6⟩⟩ := by decide +kernel

/-! ### Witnesses: for each obligation with hypotheses, states and operands that meet them, clause by clause -/

theorem witness_DecodeOfEncodeIsTheInstruction : (Instr.illegal 0xFF).wellFormed = true ∧ (Instr.busRd 0x3FF).wellFormed = true := by decide

theorem witness_DecodedWordIsTheEncodingOfItsInstruction :
    decode .c8 0x0A = .ok .decode ∧ decode .tw 0x7FFFF = .ok (.busWr 0x3FF 0xFF) ∧ decode .tw 0x3FF00 = .ok (.busRd 0x3FF) := by decide

theorem witness_OpcodeMapDecodes : 0x0B ≤ (0x0B : Byte).toNat ∧ 0x0B ≤ (0xFF : Byte).toNat := by decide

theorem witness_TransactionWordFields : (0x01 : Byte) ≠ 0 ∧ (0xFF : Byte) ≠ 0 ∧ (0x80000 : Nat) ≤ 0x80000 := by decide

theorem witness_HostMoveRunsTheDecodedTransaction :
    (∃ s : State, ∃ rest, s.agenda = .host 0x40509 :: rest ∧ ∃ i, decode .tw 0x40509 = .ok i)
      ∧ ∃ s : State, ∃ rest, s.agenda = .host 0x00301 :: rest ∧ ∃ e, decode .tw 0x00301 = .error e :=
  ⟨⟨setAgenda [.host 0x40509] base, [], rfl, .busWr 0x005 0x09, by decide⟩, ⟨setAgenda [.host 0x00301] base, [], rfl, .readCarriesData, by decide⟩⟩

theorem witness_EngineMoveRunsTheLatchedCommand :
    ∃ s : State, s.busy = true ∧ decode .c8 s.cmd.toNat = .ok .crc ∧ s.agenda = []
      ∧ (setAgenda [.engine] s).busy = true ∧ decode .c8 (setAgenda [.engine] s).cmd.toNat = .ok .crc ∧ (setAgenda [.engine] s).agenda = .engine :: [] :=
  ⟨issue 0x01 base, by decide⟩

theorem witness_IdleEngineHasNoStep :
    State.reset.busy = false ∧ State.reset.agenda = [] ∧ (setAgenda [.engine] base).busy = false ∧ (setAgenda [.engine] base).agenda = .engine :: [] := by decide

theorem witness_PlacedWordRunsNext :
    decodeTableWord 8 0x0A = some .decode ∧ 8 < 24 ∧ decodeTableWord 24 0x40509 = some (.busWr 0x005 0x09) ∧ decodeTableWord 24 0x00300 = some (.busRd 0x003) := by decide

theorem witness_WriteRacingACompletionHasBothOutcomes : (issue 0x00 base).busy = true ∧ (issue 0x00 base).cmd = 0x00 := by decide

theorem witness_PlatformResetAbandonsTheCommandAndUnlocksTheKey :
    ∃ s : State, s.agenda = .reset :: [] ∧ s.busy = true ∧ s.keyValid = true := ⟨setAgenda [.reset] (issue 0x0A (withK cat base)), by decide⟩

/-- Clause by clause of `ReadsHeldByte`: the control addresses, the first and last data and reserved addresses, a defined byte. -/
theorem witness_BusReadWhileIdle :
    base.busy = false ∧ (0x001 : Addr).toNat = 0x001 ∧ (0x000 : Addr).toNat = 0x000 ∧ (0x007 : Addr).toNat = 0x007
      ∧ DataAddr (0x010 : Addr).toNat ∧ DataAddr (0x027 : Addr).toNat ∧ DataAddr (0x200 : Addr).toNat ∧ DataAddr (0x27F : Addr).toNat
      ∧ ReservedAddr (0x008 : Addr).toNat ∧ ReservedAddr (0x3FF : Addr).toNat
      ∧ (storeBytes 0x200 [0xAB] base).busy = false ∧ Memory.read (storeBytes 0x200 [0xAB] base).mem 0x200 = some 0xAB := by
  and_intros <;> decide +kernel

theorem witness_BusReadWhileBusy :
    (issue 0x0A base).busy = true ∧ ¬ MayWriteAddr (issue 0x0A base).cmd.toNat (0x028 : Addr).toNat ∧ ¬ MayWriteAddr (issue 0x0A base).cmd.toNat (0x001 : Addr).toNat
      ∧ (0x001 : Addr).toNat = 0x001 ∧ (issue 0x0A base).cmd ≠ 0x02 ∧ (issue 0x02 base).busy = true ∧ (issue 0x02 base).cmd ≠ 0x0A
      ∧ ¬ MayWriteAddr (issue 0x02 base).cmd.toNat (0x040 : Addr).toNat := by
  and_intros <;> decide +kernel

theorem witness_ReadsAreIdempotent :
    ∃ (s t u : State) (a : Addr), exec (.busRd a) s = .next t ∧ exec (.busRd a) t = .next u
      ∧ (s.busy = true → ¬ MayWriteAddr s.cmd.toNat a.toNat ∧ (a.toNat = 0x001 → s.cmd ≠ 0x02 ∧ s.cmd ≠ 0x0A))
      ∧ (DataAddr a.toNat → (Memory.read s.mem a.toNat).isSome = true) ∧ s.busy = true ∧ DataAddr a.toNat :=
  ⟨issue 0x01 (withIn [0x31] base), _, _, 0x100, rfl, rfl, fun _ => by decide +kernel, fun _ => by decide +kernel, by decide, by decide⟩

theorem witness_BusWriteByAddress :
    (0x001 : Addr).toNat = 0x001 ∧ (0x000 : Addr).toNat ≠ 0x001 ∧ (issue 0x00 base).busy = true ∧ base.busy = false
      ∧ (0x000 : Addr).toNat = 0x000 ∧ (0x005 : Addr).toNat = 0x005 ∧ (0x007 : Addr).toNat = 0x007
      ∧ SampleAddr (0x010 : Addr).toNat ∧ SampleAddr (0x027 : Addr).toNat ∧ PassAddr (0x040 : Addr).toNat ∧ PassAddr (0x04F : Addr).toNat
      ∧ InAddr (0x100 : Addr).toNat ∧ InAddr (0x17F : Addr).toNat
      ∧ (0x002 : Addr).toNat = 0x002 ∧ (0x003 : Addr).toNat = 0x003 ∧ (0x004 : Addr).toNat = 0x004 ∧ (0x006 : Addr).toNat = 0x006
      ∧ KeyAddr (0x030 : Addr).toNat ∧ KeyAddr (0x03F : Addr).toNat ∧ OutAddr (0x200 : Addr).toNat ∧ OutAddr (0x27F : Addr).toNat
      ∧ ReservedAddr (0x00F : Addr).toNat ∧ ReservedAddr (0x028 : Addr).toNat ∧ ReservedAddr (0x050 : Addr).toNat ∧ ReservedAddr (0x0FF : Addr).toNat
      ∧ ReservedAddr (0x180 : Addr).toNat ∧ ReservedAddr (0x1FF : Addr).toNat ∧ ReservedAddr (0x280 : Addr).toNat ∧ ReservedAddr (0x3FF : Addr).toNat := by
  and_intros <;> decide +kernel

/-- The clauses of `BusWriteByAddress` exclude each other: no address is of two kinds. -/
theorem test_address_kinds_disjoint :
    ∀ a : Addr, ¬ (ReservedAddr a.toNat ∧ DataAddr a.toNat) ∧ ¬ (a.toNat < 8 ∧ (ReservedAddr a.toNat ∨ DataAddr a.toNat)) ∧ (a.toNat < 8 ∨ ReservedAddr a.toNat ∨ DataAddr a.toNat) := by
  intro a
  have := a.isLt
  omega

theorem witness_ErrBusyIsSticky :
    (∃ t, exec (.busWr 0x001 0x04) (issue 0x00 base) = .next t) ∧ (∃ t, exec (.busWr 0x005 0x04) (issue 0x00 base) = .next t)
      ∧ (∃ t, exec .nop (issue 0x00 base) = .next t) ∧ ∀ a v, Instr.nop ≠ .busWr a v :=
  ⟨⟨_, rfl⟩, ⟨_, rfl⟩, ⟨_, rfl⟩, fun _ _ h => by cases h⟩

theorem witness_IllegalOpcodeCompletesWithIllegalCommand : 0x0B ≤ (0x0B : Byte).toNat := by decide

theorem witness_EveryCommandCompletes : Instr.decode.format = .c8 ∧ (Instr.illegal 0x0B).format = .c8 := by decide

theorem witness_KeyCommandsNeedAKey :
    Instr.decode.format = .c8 ∧ Instr.decode ∈ needsKey ∧ base.keyValid = false ∧ Instr.crc.format = .c8 ∧ Instr.crc ∉ needsKey ∧ ∃ t, exec .crc base = .next t :=
  ⟨by decide, by decide, by decide, by decide, by decide, ⟨_, rfl⟩⟩

/-- With and without the last clause's premise. -/
theorem witness_FailedCommandChangesOnlyTheListedRegisters :
    (∃ s t, Instr.crc.format = .c8 ∧ exec .crc s = .next t ∧ t.result ≠ 0x00
        ∧ ¬ (Instr.crc = .decode ∧ s.keyValid = true ∧ 17 ≤ s.inLen.toNat ∧ s.inLen.toNat ≤ 128))
      ∧ ∃ s t, Instr.decode.format = .c8 ∧ exec .decode s = .next t ∧ t.result ≠ 0x00
        ∧ s.keyValid = true ∧ 17 ≤ s.inLen.toNat ∧ s.inLen.toNat ≤ 128 :=
  ⟨⟨setInLen 129 base, _, by decide, eq_next (d := base) (by decide), by decide⟩,
    ⟨withIn frameD4 (withK cat base), _, by decide, eq_next (d := base) (by decide +kernel), by decide +kernel⟩⟩

theorem witness_CommandsLeaveTheHostsRegistersAlone :
    Instr.deriveKey.format = .c8 ∧ (∃ t, exec .deriveKey base = .next t) ∧ PassAddr 0x040 ∧ InAddr 0x17F :=
  ⟨by decide, ⟨_, rfl⟩, by decide, by decide⟩

theorem witness_CommandsWriteOnlyMayWrite :
    Instr.crc.wellFormed = true ∧ Instr.crc.format = .c8 ∧ (∃ t, exec .crc base = .next t) ∧ (0x006 : Nat) ≠ 0x001 ∧ ¬ MayWriteAddr (encode .crc) 0x006 :=
  ⟨by decide, by decide, ⟨_, rfl⟩, by decide, by decide⟩

theorem witness_InputViewHoldsTheDefinedBytes :
    8 < (withIn [0x31, 0x32, 0x33, 0x34, 0x35, 0x36, 0x37, 0x38, 0x39] base).inLen.toNat
      ∧ Memory.read (withIn [0x31, 0x32, 0x33, 0x34, 0x35, 0x36, 0x37, 0x38, 0x39] base).mem (0x100 + 8) = some 0x39 := by decide +kernel

theorem witness_CrcCommand : 128 < (setInLen 129 base).inLen.toNat ∧ (setInLen 128 base).inLen.toNat ≤ 128 := by decide

theorem witness_ChecksumProperties : 8 < [0x31, 0x32, 0x33, 0x34, 0x35, 0x36, 0x37, 0x38, (0x39 : Byte)].length ∧ 7 < 8 ∧ [(0x01 : Byte)].length = [(0x80 : Byte)].length := by decide

theorem witness_UnpaddingIsExact : List.replicate 16 (0x10 : Byte) ≠ [] ∧ (List.replicate 16 (0x10 : Byte)).length % 16 = 0 := by decide

theorem witness_EcbWorksBlockByBlock : (List.replicate 32 (0x42 : Byte)).length % 16 = 0 ∧ 1 < (List.replicate 32 (0x42 : Byte)).length / 16 := by decide

theorem witness_DecryptUndoesEncrypt :
    decryptBytes .aes128 (toBlock cat) [0x31, 0x90, 0xE3, 0x16, 0x34, 0x1D, 0xE6, 0x46, 0x83, 0x22, 0x2B, 0xB0, 0x5C, 0x31, 0xC1, 0x18] = some [] := by decide +kernel

theorem witness_DeriveKeyOnceThenLocked : (withK cat base).keyValid = true ∧ base.keyValid = false := by decide

theorem witness_BlockCommands :
    base.keyValid = false ∧ (setInLen 17 (withK cat base)).keyValid = true ∧ (setInLen 17 (withK cat base)).inLen ≠ 16
      ∧ (setInLen 16 (withK cat base)).keyValid = true ∧ (setInLen 16 (withK cat base)).inLen = 16 := by decide

theorem witness_EncryptCommand :
    base.keyValid = false ∧ (setInLen 128 (withK cat base)).keyValid = true ∧ 128 ≤ (setInLen 128 (withK cat base)).inLen.toNat
      ∧ (setInLen 127 (withK cat base)).keyValid = true ∧ (setInLen 127 (withK cat base)).inLen.toNat < 128 := by decide

theorem witness_DecryptCommand :
    base.keyValid = false ∧ (setInLen 129 (withK cat base)).keyValid = true ∧ 128 < (setInLen 129 (withK cat base)).inLen.toNat
      ∧ (setInLen 128 (withK cat base)).inLen.toNat ≤ 128
      ∧ decryptBytes (withK cat base).cfg.cipher (keyOf (withK cat base)) (inBytes (withK cat base)) = none := by decide +kernel

/-- The last clause: an input that deciphers to the empty string. -/
theorem witness_DecryptCommand_ok :
    let s := withIn [0x31, 0x90, 0xE3, 0x16, 0x34, 0x1D, 0xE6, 0x46, 0x83, 0x22, 0x2B, 0xB0, 0x5C, 0x31, 0xC1, 0x18] (withK cat base)
    s.keyValid = true ∧ s.inLen.toNat ≤ 128 ∧ decryptBytes s.cfg.cipher (keyOf s) (inBytes s) = some [] := by decide +kernel

theorem witness_DecimalTextIsCanonical :
    (2 ^ 32 - 1 : Nat) < 2 ^ 32 ∧ (0 : Nat) < 2 ^ 32 ∧ (decU 0).head? = some 0x30#8 ∧ (-2 ^ 31 : Int) ≤ -2 ^ 31 ∧ (-2 ^ 31 : Int) < 0
      ∧ (2 ^ 31 - 1 : Int) ≤ 2 ^ 31 - 1 ∧ (0 : Int) ≤ 2 ^ 31 - 1 := by decide

/-- Serialized lengths 15, 16, 31, 32, 47, 48, 63 and 64, the edges of the rows. -/
theorem witness_FrameLengthBySerializedLength :
    [(⟨10000, 0, 0, 0, 0, 0⟩ : Sample), ⟨100000, 0, 0, 0, 0, 0⟩, ⟨10000000, 0xFFFFFFFF, 0x80000000, 100, 1, 0⟩, ⟨100000000, 0xFFFFFFFF, 0x80000000, 100, 1, 0⟩,
      ⟨1000000, 0x80000000, 0x80000000, 0x80000000, 0, 0⟩, ⟨10000000, 0x80000000, 0x80000000, 0x80000000, 0, 0⟩,
      ⟨1000, 0x80000000, 0x80000000, 0x80000000, 0x80000000, 1000000000⟩, ⟨10000, 0x80000000, 0x80000000, 0x80000000, 0x80000000, 1000000000⟩].map
      (fun x => (serializeSample x).length) = [15, 16, 31, 32, 47, 48, 63, 64] := by decide +kernel

theorem witness_EncodeCommand : base.keyValid = false ∧ (withK cat base).keyValid = true := by decide

theorem witness_ParseCommand :
    128 < (setInLen 129 base).inLen.toNat ∧ base.inLen.toNat ≤ 128 ∧ (inBytes base).count 0x2C#8 ≠ 5
      ∧ (inBytes (withIn [0x2C, 0x2C, 0x2C, 0x2C, 0x2C] base)).count 0x2C#8 = 5 ∧ parsePayload (inBytes (withIn [0x2C, 0x2C, 0x2C, 0x2C, 0x2C] base)) = .error .valueError
      ∧ parsePayload (inBytes (withIn [0x31, 0x2C, 0x32, 0x2C, 0x33, 0x2C, 0x34, 0x2C, 0x35, 0x2C, 0x36] base)) = .ok ⟨1, 2, 3, 4, 5, 6⟩ := by decide +kernel

/-- The outcomes before Integrity, and CrcMismatch (D4). -/
theorem witness_DecodeCommand_early :
    let s := withK cat base
    base.keyValid = false ∧ (setInLen 129 s).keyValid = true ∧ 128 < (setInLen 129 s).inLen.toNat ∧ (setInLen 16 s).inLen.toNat < 17
      ∧ (withIn frameD4 s).keyValid = true ∧ 17 ≤ (withIn frameD4 s).inLen.toNat ∧ (withIn frameD4 s).inLen.toNat ≤ 128
      ∧ (inBytes (withIn frameD4 s)).getLastD 0 ≠ checksum (inBytes (withIn frameD4 s)).dropLast := by decide +kernel

/-- The two ways to DecryptFailure: D6, a ciphertext of 17 bytes, and D19, a byte that is not ASCII. -/
theorem witness_DecodeCommand_decrypt :
    let s := withIn (List.replicate 18 0x00) (withK cat base)
    let u := withIn [0xAD, 0x61, 0x6B, 0xFD, 0x7B, 0x44, 0x0E, 0x4C, 0x98, 0x1E, 0x3A, 0xDD, 0xC1, 0xD6, 0x15, 0x98, 0x76] (withK cat base)
    (inBytes s).getLastD 0 = checksum (inBytes s).dropLast ∧ decryptBytes s.cfg.cipher (keyOf s) (inBytes s).dropLast = none
      ∧ (inBytes u).getLastD 0 = checksum (inBytes u).dropLast
      ∧ decryptBytes u.cfg.cipher (keyOf u) (inBytes u).dropLast = some [0x31, 0x2C, 0x32, 0x2C, 0x33, 0x2C, 0x34, 0x2C, 0x35, 0x2C, 0xC3, 0xA9] := by decide +kernel

/-- The outcomes after Decrypt: D10 (the empty payload), D12 (six empty tokens) and the frame of `0,0,0,0,0,0`. -/
theorem witness_DecodeCommand_late :
    let s := withIn [0x31, 0x90, 0xE3, 0x16, 0x34, 0x1D, 0xE6, 0x46, 0x83, 0x22, 0x2B, 0xB0, 0x5C, 0x31, 0xC1, 0x18, 0x44] (withK cat base)
    let u := withIn [0xA9, 0x55, 0x0C, 0x07, 0x04, 0x52, 0xB1, 0x96, 0x2F, 0x01, 0xC3, 0xC0, 0xCC, 0x98, 0xF7, 0x19, 0x63] (withK cat base)
    let v := withIn [0x95, 0xBB, 0xBD, 0x52, 0xDC, 0xDA, 0x5F, 0x8F, 0xBB, 0x37, 0xBA, 0xA3, 0xBA, 0x80, 0x15, 0xB2, 0x1F] (withK cat base)
    (inBytes s).getLastD 0 = checksum (inBytes s).dropLast ∧ decryptBytes s.cfg.cipher (keyOf s) (inBytes s).dropLast = some []
      ∧ (inBytes u).getLastD 0 = checksum (inBytes u).dropLast ∧ decryptBytes u.cfg.cipher (keyOf u) (inBytes u).dropLast = some (List.replicate 5 0x2C)
      ∧ parsePayload (List.replicate 5 0x2C) = .error .valueError
      ∧ (inBytes v).getLastD 0 = checksum (inBytes v).dropLast
      ∧ decryptBytes v.cfg.cipher (keyOf v) (inBytes v).dropLast = some [0x30, 0x2C, 0x30, 0x2C, 0x30, 0x2C, 0x30, 0x2C, 0x30, 0x2C, 0x30]
      ∧ parsePayload [0x30, 0x2C, 0x30, 0x2C, 0x30, 0x2C, 0x30, 0x2C, 0x30, 0x2C, 0x30] = .ok ⟨0, 0, 0, 0, 0, 0⟩ := by decide +kernel

/-- A codec that encodes, and one that the host gave the frame to. -/
def encoder : State := writeSample ⟨0, 0, 0, 0, 0, 0⟩ (withK cat base)
def encoded : State := after encoder (exec .encode encoder)
def receiver : State := withIn (outOf encoded) (withK cat base)

theorem witness_DecodeUndoesEncode :
    encoder.keyValid = true ∧ (∀ i, i < 16 → (Memory.read encoder.mem (0x030 + i)).isSome = true)
      ∧ exec .encode encoder = .next encoded ∧ encoded.result = 0x00 ∧ receiver.cfg = encoder.cfg ∧ receiver.keyValid = true
      ∧ (∀ i, i < 16 → Memory.read receiver.mem (0x030 + i) = Memory.read encoder.mem (0x030 + i)) ∧ receiver.inLen = encoded.outLen
      ∧ ∀ i, i < encoded.outLen.toNat → Memory.read receiver.mem (0x100 + i) = Memory.read encoded.mem (0x200 + i) :=
  ⟨by decide +kernel, by decide +kernel, eq_next (by decide +kernel), by decide +kernel, by decide +kernel, by decide +kernel, by decide +kernel, by decide +kernel,
    by decide +kernel⟩

theorem witness_SingleBitErrorIsCrcMismatch :
    let s := withIn frameD4 (withK cat base)
    s.keyValid = true ∧ 17 ≤ s.inLen.toNat ∧ s.inLen.toNat ≤ 128 ∧ 0 < frameS10.length ∧ 0 < 8
      ∧ frameS10.getLastD 0 = checksum frameS10.dropLast ∧ inBytes s = frameS10.modify 0 (fun b => b ^^^ (1#8 <<< 0)) := by decide +kernel

/-- Two codecs with one frame and key and with different registers and samples. -/
theorem witness_DecodeDependsOnlyOnFrameAndKey :
    ∃ s u t v : State, s.cfg = u.cfg ∧ s.keyValid = u.keyValid ∧ keyOf s = keyOf u ∧ s.inLen = u.inLen ∧ inBytes s = inBytes u
      ∧ exec .decode s = .next t ∧ exec .decode u = .next v ∧ s.keyValid = true ∧ 17 ≤ s.inLen.toNat ∧ s.inLen.toNat ≤ 128 ∧ s.crc ≠ u.crc :=
  ⟨withIn frameD4 (withK cat base), setCrc 0x99 (writeSample sampleS10 (withIn frameD4 (withK cat base))), _, _, rfl, rfl, by decide +kernel, rfl, by decide +kernel,
    eq_next (d := base) (by decide +kernel), eq_next (d := base) (by decide +kernel), rfl, by decide +kernel, by decide +kernel, by decide +kernel⟩

/-- A state with a key, output and a completed command, in which a CRC is pending. -/
def working : State := issue 0x01 (complete .ok (withIn [0x31] (writeOut [0xAA, 0xBB] (withK cat base))))

theorem working_inv : Inv working where
  memory_canonical := by decide +kernel
  result_legal := by decide
  out_len_bounded := by decide
  out_defined := by decide +kernel
  key_defined := by decide +kernel
  busy_not_done := by decide
  integrity_has_key := by decide
  nothing_completed := by decide

theorem witness_StepKeepsTheInvariant : Inv working ∧ ∃ t, step working = .next t := ⟨working_inv, _, eq_next (d := base) (by decide +kernel)⟩

theorem witness_LockedKeyChangesOnlyByReset : working.keyValid = true ∧ resetIsNext working = false ∧ ∃ t, step working = .next t :=
  ⟨by decide, by decide, _, eq_next (d := base) (by decide +kernel)⟩

/-- Both sides of the statement are met: a step that answers a next state, and a stop. -/
theorem witness_StepsKeepTheInstanceAndStopOnlyAtMalformedWords : (∃ t, step base = .next t) ∧ Stops (setAgenda [.host 0x00301] base) :=
  ⟨⟨_, rfl⟩, .readCarriesData, rfl⟩

theorem witness_CanonicalMemoriesWithEqualBytesAreEqual :
    Memory.wf working.mem = true ∧ ∀ a, Memory.read working.mem a = Memory.read working.mem a := ⟨by decide +kernel, fun _ => rfl⟩

end Sys2Proof.Tests
end

section
/-! Proofs of the state rules (10_state.md). The fact that the claims about commands and steps share is `exec_command_next`: a command that completes has stored one kind of data (`StoresData`) and has set the registers of the completion (`CommandEnds`). -/

namespace Sys2Proof.Machine

/-! ### Canonical memories -/

theorem Memory.read_eq_none_of_above {b a : Nat} {m : Memory} (h : Memory.above b m) (ha : a ≤ b) : Memory.read m a = none := by
  induction m with
  | nil => rfl
  | cons c m ih =>
    have hc : b < c.1 := h c List.mem_cons_self
    rw [Memory.read_cons, if_neg (by omega)]
    exact ih (fun d hd => h d (List.mem_cons_of_mem _ hd))

/-- Where two memories read alike, the first cell of one is not below every cell of the other. -/
theorem Memory.head_le_of_read_eq {c d : Host.Cell} {m m' : Memory} (hm' : Memory.above d.1 m')
    (h : ∀ a, Memory.read (c :: m) a = Memory.read (d :: m') a) : d.1 ≤ c.1 := by
  by_contra hlt
  have hc := h c.1
  rw [Memory.read_cons, if_pos rfl, Memory.read_cons, if_neg (by omega), Memory.read_eq_none_of_above hm' (by omega)] at hc
  cases hc

theorem Memory.eq_of_read_eq {m m' : Memory} (hm : Memory.rising m = true) (hm' : Memory.rising m' = true)
    (h : ∀ a, Memory.read m a = Memory.read m' a) : m = m' := by
  induction m generalizing m' with
  | nil =>
    cases m' with
    | nil => rfl
    | cons d m' => simpa [Memory.read_cons] using h d.1
  | cons c m ih =>
    cases m' with
    | nil => simpa [Memory.read_cons] using h c.1
    | cons d m' =>
      obtain ⟨habove, hrise⟩ := (Memory.rising_cons c m).1 hm
      obtain ⟨habove', hrise'⟩ := (Memory.rising_cons d m').1 hm'
      have haddr : c.1 = d.1 :=
        Nat.le_antisymm (Memory.head_le_of_read_eq habove fun a => (h a).symm) (Memory.head_le_of_read_eq habove' h)
      have hbyte : c.2 = d.2 := by simpa [Memory.read_cons, haddr] using h c.1
      have htail : m = m' := ih hrise hrise' fun a => by
        by_cases ha : a = c.1
        · rw [Memory.read_eq_none_of_above habove ha.le, Memory.read_eq_none_of_above habove' (haddr ▸ ha.le)]
        · simpa [Memory.read_cons, ← haddr, Ne.symm ha] using h a
      rw [Prod.ext haddr hbyte, htail]

/-- Settles O60: two rising lists of cells that read alike have the same first cell and tails that read alike. -/
theorem canonicalMemoriesWithEqualBytesAreEqual : Obligations.CanonicalMemoriesWithEqualBytesAreEqual := by
  intro m m' hm hm' h
  simp only [Memory.wf, Bool.and_eq_true] at hm hm'
  exact Memory.eq_of_read_eq hm.1 hm'.1 h

/-! ### The sample registers -/

theorem word32_toNat (b0 b1 b2 b3 : Byte) :
    (word32 b0 b1 b2 b3).toNat = b0.toNat + 256 * b1.toNat + 65536 * b2.toNat + 16777216 * b3.toNat := by
  simp only [word32, BitVec.toNat_append]
  rw [← Nat.shiftLeft_add_eq_or_of_lt b2.isLt, ← Nat.shiftLeft_add_eq_or_of_lt b1.isLt, ← Nat.shiftLeft_add_eq_or_of_lt b0.isLt]
  simp only [Nat.shiftLeft_eq]
  omega

/-- A 32-bit two's complement value from its unsigned value (10_state.md R39). -/
theorem toInt_of_toNat {v : Word32} {n : Nat} (h : v.toNat = n) : v.toInt = if n < 2 ^ 31 then (n : Int) else (n : Int) - 2 ^ 32 := by
  rw [BitVec.toInt_eq_toNat_cond, h]
  split_ifs <;> omega

/-- Settles O26: each register is `word32` of its four bytes. -/
theorem sampleRegistersAreLittleEndian : Obligations.SampleRegistersAreLittleEndian := fun _ =>
  ⟨word32_toNat .., toInt_of_toNat (word32_toNat ..), toInt_of_toNat (word32_toNat ..), toInt_of_toNat (word32_toNat ..),
    toInt_of_toNat (word32_toNat ..), toInt_of_toNat (word32_toNat ..)⟩

/-! ### Lengths of what the commands store -/

theorem pad_length (p : List Byte) : (pad p).length = 16 * (p.length / 16 + 1) := by
  simp only [pad, List.length_append, List.length_replicate]
  omega

theorem encryptBytes_length (c : Config.CipherChoice) (k : Key) (p : List Byte) :
    (encryptBytes c k p).length = 16 * (p.length / 16 + 1) := by
  rw [encryptBytes, ecbEnc, ecbBlocks_length, pad_length, Nat.mul_div_cancel_left _ (by decide)]

theorem unpad_length_le {q r : List Byte} (h : unpad q = some r) : r.length ≤ q.length := by
  simp only [unpad] at h
  split_ifs at h
  cases h
  exact List.length_take_le' ..

theorem decryptBytes_length_le {c : Config.CipherChoice} {k : Key} {q r : List Byte} (h : decryptBytes c k q = some r) :
    r.length ≤ q.length := by
  unfold decryptBytes at h
  split at h
  · cases h
  · calc r.length ≤ (ecbDec c k q).length := unpad_length_le h
      _ = 16 * (q.length / 16) := ecbBlocks_length ..
      _ ≤ q.length := Nat.mul_div_le ..

theorem deriveKeyBytes_length (fill : Byte) (p : List Byte) : (deriveKeyBytes fill p).length = 16 := by
  simp only [deriveKeyBytes, List.length_append, List.length_take, List.length_replicate]
  omega

theorem decDigits_length_le (fuel v : Nat) : (decDigits fuel v).length ≤ fuel := by
  induction fuel generalizing v with
  | zero => simp [decDigits]
  | succ fuel ih =>
    unfold decDigits
    split
    · simp
    · simpa using ih (v / 10)

theorem decS_length_le (v : Int) : (decS v).length ≤ 11 := by
  unfold decS decU
  split
  · exact (decDigits_length_le 10 _).trans (by decide)
  · exact Nat.succ_le_succ (decDigits_length_le 10 _)

theorem serializeSample_length_le (p : Sample) : (serializeSample p).length ≤ 70 := by
  have hid : (decU p.id.toNat).length ≤ 10 := decDigits_length_le 10 _
  have h0 := decS_length_le p.f0.toInt
  have h1 := decS_length_le p.f1.toInt
  have h2 := decS_length_le p.f2.toInt
  have h3 := decS_length_le p.f3.toInt
  have h4 := decS_length_le p.f4.toInt
  simp only [serializeSample, List.length_append, List.length_cons]
  omega

theorem encodeFrame_length_le (c : Config.CipherChoice) (k : Key) (p : Sample) : (encodeFrame c k p).length ≤ bufSize := by
  have := serializeSample_length_le p
  simp only [encodeFrame, sampleCiphertext, List.length_append, encryptBytes_length, List.length_singleton, bufSize]
  omega

/-! ### How a command changes the state -/

/-- What a command stores before it ends: nothing, its output in OUT, the sample registers, or the first key. -/
inductive StoresData (s : State) : State → Prop
  | nothing : StoresData s s
  | output (bs : List Byte) (fits : bs.length ≤ bufSize) : StoresData s (writeOut bs s)
  | sample (x : Sample) : StoresData s (writeSample x s)
  | key (bs : List Byte) (unlocked : s.keyValid = false) (full : bs.length = 16) :
      StoresData s (setKeyValid true (storeBytes keyBase bs s))

/-- How a command takes `s` to its end: it stores data, may set CRC, RXCRC and INTEGRITY, and completes. INTEGRITY is 1 only if it was or there is a key. -/
inductive CommandEnds (s : State) : State → Prop
  | intro {u : State} (stores : StoresData s u) (c : ResultCode) (crc rxcrc : Byte) (integrity : Bool)
      (checked : integrity = true → s.integrity = true ∨ s.keyValid = true) :
      CommandEnds s (complete c (setIntegrity integrity (setRxcrc rxcrc (setCrc crc u))))

theorem StoresData.integrity {s u : State} (h : StoresData s u) : u.integrity = s.integrity := by cases h <;> rfl

/-- A command that sets CRC to `crc` and leaves RXCRC and INTEGRITY. -/
theorem StoresData.endsWithCrc {s u : State} (h : StoresData s u) (c : ResultCode) (crc : Byte) :
    CommandEnds s (complete c (setCrc crc u)) :=
  .intro h c crc u.rxcrc u.integrity fun hi => .inl (h.integrity ▸ hi)

/-- A command that leaves CRC, RXCRC and INTEGRITY. -/
theorem StoresData.ends {s u : State} (h : StoresData s u) (c : ResultCode) : CommandEnds s (complete c u) :=
  h.endsWithCrc c u.crc

/-- A DECODE that fails before the Integrity stage. -/
theorem commandEnds_integrityCleared (c : ResultCode) (s : State) : CommandEnds s (complete c (setIntegrity false s)) :=
  .intro .nothing c s.crc s.rxcrc false nofun

theorem decodeFrame_ends {f : List Byte} {s t : State} (hk : s.keyValid = true) (h : decodeFrame f s = .next t) : CommandEnds s t := by
  rcases decodeFrame_next h with ⟨_, rfl⟩ | ⟨_, h⟩
  · exact .intro .nothing _ _ _ false nofun
  · rcases decodeCiphertext_next h with ⟨_, rfl⟩ | ⟨_, e, _, _, rfl⟩ | ⟨_, x, _, _, rfl⟩
    · exact .intro .nothing _ _ _ false nofun
    · exact .intro .nothing e _ _ false nofun
    · exact .intro (.sample x) .ok _ _ true fun _ => .inr hk

/-- Everything a command can do. -/
theorem exec_command_next {i : Instr} {s t : State} (hf : i.format = .c8) (h : exec i s = .next t) : CommandEnds s t := by
  cases i with
  | nop => cases h; exact StoresData.nothing.ends .ok
  | crc =>
    rcases execCrc_next h with ⟨_, rfl⟩ | ⟨_, rfl⟩
    · exact StoresData.nothing.ends _
    · exact StoresData.nothing.endsWithCrc _ _
  | deriveKey =>
    rcases execDeriveKey_next h with ⟨_, rfl⟩ | ⟨hk, rfl⟩
    · exact StoresData.nothing.ends _
    · exact (StoresData.key _ hk (deriveKeyBytes_length ..)).ends _
  | blockEnc =>
    rcases execBlockEnc_next h with ⟨_, rfl⟩ | ⟨_, _, rfl⟩ | ⟨_, _, rfl⟩
    · exact StoresData.nothing.ends _
    · exact StoresData.nothing.ends _
    · exact (StoresData.output _ (by simp [bufSize])).ends _
  | blockDec =>
    rcases execBlockDec_next h with ⟨_, rfl⟩ | ⟨_, _, rfl⟩ | ⟨_, _, rfl⟩
    · exact StoresData.nothing.ends _
    · exact StoresData.nothing.ends _
    · exact (StoresData.output _ (by simp [bufSize])).ends _
  | encrypt =>
    rcases execEncrypt_next h with ⟨_, rfl⟩ | ⟨_, _, rfl⟩ | ⟨_, hl, rfl⟩
    · exact StoresData.nothing.ends _
    · exact StoresData.nothing.ends _
    · refine (StoresData.output _ ?_).ends _
      rw [encryptBytes_length, inBytes, memRead_length, bufSize]
      omega
  | decrypt =>
    rcases execDecrypt_next h with ⟨_, rfl⟩ | ⟨_, _, rfl⟩ | ⟨_, _, _, rfl⟩ | ⟨_, hl, r, hr, rfl⟩
    · exact StoresData.nothing.ends _
    · exact StoresData.nothing.ends _
    · exact StoresData.nothing.ends _
    · have hle := decryptBytes_length_le hr
      rw [inBytes, memRead_length] at hle
      exact (StoresData.output r (hle.trans hl)).ends _
  | serialize =>
    cases execSerialize_next h
    exact (StoresData.output _ ((serializeSample_length_le _).trans (by decide))).ends _
  | encode =>
    rcases execEncode_next h with ⟨_, rfl⟩ | ⟨_, rfl⟩
    · exact StoresData.nothing.ends _
    · exact (StoresData.output _ (encodeFrame_length_le ..)).endsWithCrc _ _
  | parse =>
    rcases execParse_next h with ⟨_, rfl⟩ | ⟨_, e, _, rfl⟩ | ⟨_, x, _, rfl⟩
    · exact StoresData.nothing.ends _
    · exact StoresData.nothing.ends e
    · exact (StoresData.sample x).ends _
  | decode =>
    rcases execDecode_next h with ⟨_, rfl⟩ | ⟨_, _, rfl⟩ | ⟨_, _, rfl⟩ | ⟨hk, _, _, h⟩
    · exact commandEnds_integrityCleared ..
    · exact commandEnds_integrityCleared ..
    · exact commandEnds_integrityCleared ..
    · exact decodeFrame_ends hk h
  | illegal op => cases h; exact StoresData.nothing.ends .illegalCommand
  | busWr a v => cases hf
  | busRd a => cases hf

/-! ### What a command leaves unchanged -/

/-- A string stored inside a range leaves the addresses outside it alone. -/
theorem Memory.read_writeBytes_of_not {P : Nat → Prop} {bs : List Byte} {m : Memory} {a x : Nat}
    (h : ∀ i, i < bs.length → P (a + i)) (hx : ¬ P x) : Memory.read (Memory.writeBytes m a bs) x = Memory.read m x := by
  refine Memory.read_writeBytes_outside (not_and_or.1 ?_ |>.imp Nat.not_le.1 Nat.not_lt.1)
  rintro ⟨h1, h2⟩
  exact hx (Nat.add_sub_cancel' h1 ▸ h (x - a) (by omega))

theorem outBuf_addr {bs : List Byte} (fits : bs.length ≤ bufSize) : ∀ i, i < bs.length → OutAddr (outBase + i) := by
  intro i hi
  unfold bufSize at fits
  unfold OutAddr outBase
  omega

theorem key_addr {bs : List Byte} (full : bs.length = 16) : ∀ i, i < bs.length → KeyAddr (keyBase + i) := by
  intro i hi
  unfold KeyAddr keyBase
  omega

theorem sample_addr (x : Sample) : ∀ i, i < (sampleBytes x).length → SampleAddr (sampleBase + i) := by
  intro i hi
  rw [sampleBytes_length] at hi
  unfold SampleAddr sampleBase
  omega

/-- The data a command stores are in OUT, in SAMPLE, or in KEY if there was no key. -/
theorem StoresData.read_eq {s u : State} (h : StoresData s u) {a : Nat} (hout : ¬ OutAddr a) (hsample : ¬ SampleAddr a)
    (hkey : s.keyValid = true ∨ ¬ KeyAddr a) : Memory.read u.mem a = Memory.read s.mem a := by
  cases h with
  | nothing => rfl
  | output bs fits => exact Memory.read_writeBytes_of_not (outBuf_addr fits) hout
  | sample x => exact Memory.read_writeBytes_of_not (sample_addr x) hsample
  | key bs unlocked full => exact Memory.read_writeBytes_of_not (key_addr full) (hkey.resolve_left (by simp [unlocked]))

theorem CommandEnds.hostRegisters {s t : State} (h : CommandEnds s t) :
    t.cmd = s.cmd ∧ t.errBusy = s.errBusy ∧ t.inLen = s.inLen ∧ t.passLen = s.passLen ∧ t.cfg = s.cfg
      ∧ t.agenda = s.agenda ∧ t.readLog = s.readLog := by
  obtain ⟨stores⟩ := h
  cases stores <;> simp

theorem CommandEnds.read_eq {s t : State} {a : Nat} (ha : PassAddr a ∨ InAddr a) (h : CommandEnds s t) :
    Memory.read t.mem a = Memory.read s.mem a := by
  obtain ⟨stores⟩ := h
  exact stores.read_eq (by omega) (by omega) (.inr (by omega))

/-- Settles O23: no kind of stored data and no register of a completion is the host's. -/
theorem commandsLeaveTheHostsRegistersAlone : Obligations.CommandsLeaveTheHostsRegistersAlone := by
  intro i s t hf h
  have ends := exec_command_next hf h
  obtain ⟨hcmd, herr, hin, hpass, hcfg, hagenda, hlog⟩ := ends.hostRegisters
  exact ⟨hcmd, herr, hin, hpass, hcfg, hagenda, hlog, fun a ha => ends.read_eq ha⟩

/-- Commands, bus writes and bus reads are all the instructions. -/
theorem format_c8_or_bus (i : Instr) : i.format = .c8 ∨ (∃ a v, i = .busWr a v) ∨ ∃ a, i = .busRd a := by
  cases i <;> simp [Instr.format]

theorem busWrite_errBusy (a : Nat) (v : Byte) (s : State) :
    (busWrite a v s).errBusy = if a = 0x001 then (if v.getLsbD 2 then false else s.errBusy) else (s.busy || s.errBusy) := by
  rcases busWrite_cases a v s with ⟨rfl, h⟩ | ⟨h1, hb, h⟩ | ⟨hb, rfl, h⟩ | ⟨hb, rfl, h⟩ | ⟨hb, rfl, h⟩ | ⟨hb, ha, h⟩ | ⟨hb, -, h1, -, -, -, h⟩
  · rcases statusWrite_cases v s with ⟨hv, hs⟩ | ⟨hv, hs⟩ <;> rw [h, hs, if_pos rfl, hv] <;> rfl
  · simp [h, h1, hb]
  · simp [h, hb]
  · simp [h, hb]
  · simp [h, hb]
  · have h1 : a ≠ 0x001 := by omega
    simp [h, h1, hb]
  · simp [h, h1, hb]

/-- Settles O17: a bus write acts on ERR_BUSY by its address, a command leaves the host's registers, and a bus read has no effect. -/
theorem errBusyIsSticky : Obligations.ErrBusyIsSticky := by
  refine ⟨rfl, fun i s t h => ?_⟩
  rcases format_c8_or_bus i with hf | ⟨a, v, rfl⟩ | ⟨a, rfl⟩
  · obtain ⟨-, herr, -⟩ := (exec_command_next hf h).hostRegisters
    refine ⟨fun a v hi => ?_, fun _ => herr⟩
    subst hi
    cases hf
  · cases execBusWr_next h
    refine ⟨fun a' v' hi => ?_, fun hi => absurd rfl (hi a v)⟩
    cases hi
    exact busWrite_errBusy ..
  · cases execBusRd_next h
    exact ⟨nofun, fun _ => rfl⟩

/-! ### What a step can do -/

/-- Everything a step that answers a next state can do, with its move off the agenda: nothing, a pending command, a bus write, a bus read, or a reset. -/
theorem step_next_effect {s t : State} (h : step s = .next t) :
    ∃ rest, t = setAgenda rest s
      ∨ (s.busy = true ∧ ∃ i, i.format = .c8 ∧ exec i (setAgenda rest s) = .next t)
      ∨ (∃ a v, t = busWrite a v (setAgenda rest s))
      ∨ (∃ a v, t = nextDraw (logRead a v (setAgenda rest s)))
      ∨ (s.agenda = .reset :: rest ∧ t = platformReset (setAgenda rest s)) := by
  rcases step_next_cases h with ⟨_, _, rfl⟩ | ⟨_, rest, _, rfl⟩ | ⟨hb, _, h⟩ | ⟨hb, rest, _, h⟩ | ⟨w, rest, i, _, hd, h⟩ | ⟨rest, ha, rfl⟩
  · exact ⟨t.agenda, .inl rfl⟩
  · exact ⟨rest, .inl rfl⟩
  · exact ⟨s.agenda, .inr (.inl ⟨hb, _, decodeC8_format _, h⟩)⟩
  · exact ⟨rest, .inr (.inl ⟨hb, _, decodeC8_format _, h⟩)⟩
  · rcases decode_tw_cases hd with ⟨a, v, rfl⟩ | ⟨a, rfl⟩
    · exact ⟨rest, .inr (.inr (.inl ⟨_, _, execBusWr_next h⟩))⟩
    · exact ⟨rest, .inr (.inr (.inr (.inl ⟨_, _, execBusRd_next h⟩)))⟩
  · exact ⟨rest, .inr (.inr (.inr (.inr ⟨ha, rfl⟩)))⟩

/-! ### The key lock -/

/-- `s` and `t` hold the same key: KEY_VALID and every byte of KEY. -/
def SameKey (s t : State) : Prop := t.keyValid = s.keyValid ∧ ∀ a, KeyAddr a → Memory.read t.mem a = Memory.read s.mem a

theorem StoresData.sameKey {s u : State} (hk : s.keyValid = true) (h : StoresData s u) : SameKey s u := by
  refine ⟨?_, fun a ha => h.read_eq (by omega) (by omega) (.inl hk)⟩
  cases h with
  | nothing => rfl
  | output => rfl
  | sample => rfl
  | key bs unlocked => exact hk.symm

theorem CommandEnds.sameKey {s t : State} (hk : s.keyValid = true) : CommandEnds s t → SameKey s t
  | .intro stores _ _ _ _ _ => by
    obtain ⟨hkv, hkey⟩ := stores.sameKey hk
    exact ⟨hkv, hkey⟩

/-- No bus write reaches KEY or KEY_VALID (10_state.md R40). -/
theorem busWrite_sameKey (a : Nat) (v : Byte) (s : State) : SameKey s (busWrite a v s) := by
  rcases busWrite_cases a v s with ⟨-, h⟩ | ⟨-, -, h⟩ | ⟨-, -, h⟩ | ⟨-, -, h⟩ | ⟨-, -, h⟩ | ⟨-, ha, h⟩ | ⟨-, -, -, -, -, -, h⟩ <;> rw [h]
  · rcases statusWrite_cases v s with ⟨-, h⟩ | ⟨-, h⟩ <;> rw [h] <;> exact ⟨rfl, fun _ _ => rfl⟩
  · exact ⟨rfl, fun _ _ => rfl⟩
  · exact ⟨rfl, fun _ _ => rfl⟩
  · exact ⟨rfl, fun _ _ => rfl⟩
  · exact ⟨rfl, fun _ _ => rfl⟩
  · refine ⟨rfl, fun x hx => Memory.read_writeBytes_outside ?_⟩
    rw [List.length_singleton]
    omega
  · exact ⟨rfl, fun _ _ => rfl⟩

/-- Settles O58: a command finds the key locked, a bus write does not reach it, and the other moves store nothing. -/
theorem lockedKeyChangesOnlyByReset : Obligations.LockedKeyChangesOnlyByReset := by
  intro s t hk hr h
  obtain ⟨hvalid, hkey⟩ : SameKey s t := by
    obtain ⟨rest, rfl | ⟨-, i, hf, he⟩ | ⟨a, v, rfl⟩ | ⟨a, v, rfl⟩ | ⟨ha, rfl⟩⟩ := step_next_effect h
    · exact ⟨rfl, fun _ _ => rfl⟩
    · exact CommandEnds.sameKey (s := setAgenda rest s) hk (exec_command_next hf he)
    · exact busWrite_sameKey a v (setAgenda rest s)
    · exact ⟨rfl, fun _ _ => rfl⟩
    · simp [resetIsNext, ha] at hr
  exact ⟨hvalid.trans hk, hkey⟩

/-! ### The invariant -/

theorem inv_setAgenda {s : State} (rest : List Event) (h : Inv s) : Inv (setAgenda rest s) := { h with }

theorem inv_setErrBusy {s : State} (b : Bool) (h : Inv s) : Inv (setErrBusy b s) := { h with }

theorem inv_setInLen {s : State} (v : Byte) (h : Inv s) : Inv (setInLen v s) := { h with }

theorem inv_setPassLen {s : State} (v : Byte) (h : Inv s) : Inv (setPassLen v s) := { h with }

theorem inv_busRead {s : State} (a : Addr) (v : Byte) (h : Inv s) : Inv (nextDraw (logRead a v s)) := { h with }

theorem inv_issue {s : State} (v : Byte) (h : Inv s) : Inv (issue v s) :=
  { h with
    busy_not_done := fun _ => rfl
    nothing_completed := nofun }

/-- The registers of a completion keep the invariant, if INTEGRITY is 1 only with a key. -/
theorem inv_complete {u : State} (h : Inv u) (c : ResultCode) (crc rxcrc : Byte) {b : Bool} (hb : b = true → u.keyValid = true) :
    Inv (complete c (setIntegrity b (setRxcrc rxcrc (setCrc crc u)))) :=
  { h with
    result_legal := code_le_nine c
    integrity_has_key := hb
    busy_not_done := nofun
    nothing_completed := nofun }

theorem isData_of_dataAddr {a : Nat} (h : DataAddr a) : (regionAt a).isData = true := by
  rcases h with h | h | h | h | h
  · rw [regionAt_sample h]; rfl
  · rw [regionAt_key h]; rfl
  · rw [regionAt_pass h]; rfl
  · rw [regionAt_inBuf h]; rfl
  · rw [regionAt_outBuf h]; rfl

/-- The data bytes a host may write: SAMPLE, PASS and IN (20_memory.md R64). -/
abbrev HostDataAddr (a : Nat) : Prop := SampleAddr a ∨ PassAddr a ∨ InAddr a

/-- A string stored in SAMPLE, PASS or IN touches neither KEY nor OUT. -/
theorem inv_storeBytes {s : State} {a : Nat} {bs : List Byte} (hd : ∀ i, i < bs.length → HostDataAddr (a + i))
    (h : Inv s) : Inv (storeBytes a bs s) :=
  { h with
    memory_canonical := Memory.wf_writeBytes (fun i hi => isData_of_dataAddr (by have := hd i hi; tauto)) h.memory_canonical
    out_defined := fun i hi => by
      have := h.out_len_bounded
      rw [storeBytes_mem, Memory.read_writeBytes_of_not hd (by rw [storeBytes_outLen] at hi; omega)]
      exact h.out_defined i hi
    key_defined := fun i hi => by
      rw [storeBytes_mem, Memory.read_writeBytes_of_not hd (by omega)]
      exact h.key_defined i hi }

theorem inv_busWrite {s : State} (a : Nat) (v : Byte) (h : Inv s) : Inv (busWrite a v s) := by
  rcases busWrite_cases a v s with ⟨-, hw⟩ | ⟨-, -, hw⟩ | ⟨-, -, hw⟩ | ⟨-, -, hw⟩ | ⟨-, -, hw⟩ | ⟨-, ha, hw⟩ | ⟨-, -, -, -, -, -, hw⟩ <;> rw [hw]
  · rcases statusWrite_cases v s with ⟨-, hs⟩ | ⟨-, hs⟩ <;> rw [hs]
    · exact inv_setErrBusy false h
    · exact h
  · exact inv_setErrBusy true h
  · exact inv_issue v h
  · exact inv_setInLen v h
  · exact inv_setPassLen v h
  · refine inv_storeBytes (fun i hi => ?_) h
    rw [List.length_singleton, Nat.lt_one_iff] at hi
    subst hi
    exact ha
  · exact h

/-- Output of at most 128 bytes: OUT_LEN counts bytes that are now defined, and KEY is not touched. -/
theorem inv_writeOut {s : State} {bs : List Byte} (fits : bs.length ≤ bufSize) (hb : s.busy = true) (h : Inv s) : Inv (writeOut bs s) := by
  have hlen : (writeOut bs s).outLen.toNat = bs.length := by
    rw [writeOut_outLen, BitVec.toNat_ofNat]
    exact Nat.mod_eq_of_lt (Nat.lt_of_le_of_lt fits (by decide))
  exact { h with
    memory_canonical := Memory.wf_writeBytes (fun i hi => isData_of_dataAddr (.inr (.inr (.inr (.inr (outBuf_addr fits i hi)))))) h.memory_canonical
    out_len_bounded := hlen ▸ fits
    out_defined := fun i hi => by
      rw [writeOut_mem, ← outBase, Memory.read_writeBytes_inside (hlen ▸ hi)]
      rfl
    key_defined := fun i hi => by
      rw [writeOut_mem, Memory.read_writeBytes_of_not (outBuf_addr fits) (by omega)]
      exact h.key_defined i hi
    nothing_completed := fun hidle => absurd hb (by simpa using hidle) }

/-- Sixteen bytes stored in KEY define it, as KEY_VALID = 1 then says, and OUT is not touched. -/
theorem inv_storeKey {s : State} {bs : List Byte} (full : bs.length = 16) (hb : s.busy = true) (h : Inv s) :
    Inv (setKeyValid true (storeBytes keyBase bs s)) :=
  { h with
    memory_canonical := Memory.wf_writeBytes (fun i hi => isData_of_dataAddr (.inr (.inl (key_addr full i hi)))) h.memory_canonical
    out_defined := fun i hi => by
      have := h.out_len_bounded
      rw [setKeyValid_mem, storeBytes_mem, Memory.read_writeBytes_of_not (key_addr full) (by rw [setKeyValid_outLen, storeBytes_outLen] at hi; omega)]
      exact h.out_defined i hi
    key_defined := fun i hi => by
      rw [setKeyValid_mem, storeBytes_mem, ← keyBase, Memory.read_writeBytes_inside (full ▸ hi)]
      rfl
    integrity_has_key := fun _ => rfl
    nothing_completed := fun hidle => absurd hb (by simpa using hidle) }

theorem StoresData.inv {s u : State} (hb : s.busy = true) (h : Inv s) : StoresData s u → Inv u
  | .nothing => h
  | .output _ fits => inv_writeOut fits hb h
  | .sample x => inv_storeBytes (fun i hi => .inl (sample_addr x i hi)) h
  | .key _ _ full => inv_storeKey full hb h

theorem CommandEnds.inv {s t : State} (hb : s.busy = true) (h : Inv s) : CommandEnds s t → Inv t
  | .intro stores c crc rxcrc _ checked => by
    refine inv_complete (stores.inv hb h) c crc rxcrc fun hi => ?_
    have hk : s.keyValid = true := (checked hi).elim h.integrity_has_key id
    exact (stores.sameKey hk).1.trans hk

theorem inv_reset : Inv State.reset where
  memory_canonical := Memory.wf_reset
  result_legal := by decide
  out_len_bounded := by decide
  out_defined := nofun
  key_defined := fun _ _ => rfl
  busy_not_done := nofun
  integrity_has_key := nofun
  nothing_completed := fun _ _ => ⟨rfl, rfl, rfl, rfl, rfl, rfl⟩

theorem inv_platformReset (s : State) : Inv (platformReset s) := { inv_reset with }

/-- Settles O57: each of the five effects of a step keeps the invariant. -/
theorem stepKeepsTheInvariant : Obligations.StepKeepsTheInvariant := by
  intro s t hinv h
  obtain ⟨rest, rfl | ⟨hb, i, hf, he⟩ | ⟨a, v, rfl⟩ | ⟨a, v, rfl⟩ | ⟨-, rfl⟩⟩ := step_next_effect h
  · exact inv_setAgenda rest hinv
  · exact CommandEnds.inv (s := setAgenda rest s) hb (inv_setAgenda rest hinv) (exec_command_next hf he)
  · exact inv_busWrite a v (inv_setAgenda rest hinv)
  · exact inv_busRead a v (inv_setAgenda rest hinv)
  · exact inv_platformReset _

/-! ### What no step changes, and where a step stops -/

/-- The outcome is a next state. -/
def Answers (o : Out) : Prop := ∃ t, o = .next t

theorem finish_answers (c : ResultCode) (s : State) : Answers (finish c s) := ⟨_, rfl⟩

theorem withKey_answers {s : State} {body : Out} (h : Answers body) : Answers (withKey s body) := by
  unfold withKey
  split
  · exact h
  · exact finish_answers ..

theorem withInput_answers {s : State} {body : Out} (h : Answers body) : Answers (withInput s body) := by
  unfold withInput
  split
  · exact finish_answers ..
  · exact h

theorem execDeriveKey_answers (s : State) : Answers (execDeriveKey s) := by
  unfold execDeriveKey
  split <;> exact finish_answers ..

theorem execDecode_answers (s : State) : Answers (execDecode s) := by
  unfold execDecode decodeFrame decodeCiphertext
  dsimp only
  split_ifs
  · exact finish_answers ..
  · exact finish_answers ..
  · exact finish_answers ..
  · exact finish_answers ..
  · split
    · exact finish_answers ..
    · split <;> exact finish_answers ..

/-- No command and no transaction is refused or faults (60_exceptions.md R301). -/
theorem exec_answers (i : Instr) (s : State) : Answers (exec i s) := by
  cases i with
  | nop => exact finish_answers ..
  | crc => exact withInput_answers (finish_answers ..)
  | deriveKey => exact execDeriveKey_answers s
  | blockEnc => exact withKey_answers (by split <;> exact finish_answers ..)
  | blockDec => exact withKey_answers (by split <;> exact finish_answers ..)
  | encrypt => exact withKey_answers (withInput_answers (by split <;> exact finish_answers ..))
  | decrypt => exact withKey_answers (withInput_answers (by split <;> exact finish_answers ..))
  | serialize => exact finish_answers ..
  | encode => exact withKey_answers (finish_answers ..)
  | parse => exact withInput_answers (by split <;> exact finish_answers ..)
  | decode => exact execDecode_answers s
  | illegal op => exact finish_answers ..
  | busWr a v => exact ⟨_, rfl⟩
  | busRd a => exact ⟨_, rfl⟩

theorem engineMove_answers (s : State) : Answers (engineMove s) := by
  unfold engineMove
  split
  · exact exec_answers ..
  · exact ⟨_, rfl⟩

theorem step_answers_or_stops (s : State) :
    Answers (step s) ∨ (Stops s ∧ ∃ w rest e, s.agenda = .host w :: rest ∧ decode .tw w = .error e) := by
  unfold Stops step nextMove
  cases hs : s.agenda with
  | nil => exact .inl (engineMove_answers s)
  | cons e rest =>
    cases e with
    | engine => exact .inl (engineMove_answers _)
    | reset => exact .inl ⟨_, rfl⟩
    | host w =>
      simp only [move, hostMove]
      cases hd : decode .tw w with
      | ok i => exact .inl (exec_answers ..)
      | error e => exact .inr ⟨⟨e, rfl⟩, w, rest, e, rfl, hd⟩

theorem busWrite_cfg (a : Nat) (v : Byte) (s : State) : (busWrite a v s).cfg = s.cfg := by
  rcases busWrite_cases a v s with ⟨-, h⟩ | ⟨-, -, h⟩ | ⟨-, -, h⟩ | ⟨-, -, h⟩ | ⟨-, -, h⟩ | ⟨-, -, h⟩ | ⟨-, -, -, -, -, -, h⟩ <;> rw [h]
  · rcases statusWrite_cases v s with ⟨-, h⟩ | ⟨-, h⟩ <;> rw [h]
    rfl
  all_goals rfl

theorem step_cfg {s t : State} (h : step s = .next t) : t.cfg = s.cfg := by
  obtain ⟨rest, rfl | ⟨-, i, hf, he⟩ | ⟨a, v, rfl⟩ | ⟨a, v, rfl⟩ | ⟨-, rfl⟩⟩ := step_next_effect h
  · rfl
  · obtain ⟨-, -, -, -, hcfg, -⟩ := (exec_command_next hf he).hostRegisters
    exact hcfg
  · exact busWrite_cfg ..
  · rfl
  · rfl

/-- Settles O59: a step that answers keeps `cfg`, and only the decoder of a host word can stop it. -/
theorem stepsKeepTheInstanceAndStopOnlyAtMalformedWords : Obligations.StepsKeepTheInstanceAndStopOnlyAtMalformedWords := fun s =>
  (step_answers_or_stops s).imp_left fun ⟨t, ht⟩ => ⟨t, ht, step_cfg ht⟩

end Sys2Proof.Machine
end

section
/-! Proofs of the memory rules (20_memory.md). A bus read rests on what `held` says of an address, a bus write on the region of the address, and a command's frame (`exec_held`) on what each named update leaves held. -/

namespace Sys2Proof.Machine

/-! ### Command bytes -/

theorem encode_decodeC8 (op : Byte) : encode (decodeC8 op) = op.toNat := by
  unfold decodeC8
  split
  case h_12 => rfl
  all_goals exact Eq.symm ‹_›

theorem decodeC8_injective : Function.Injective decodeC8 := fun op op' h =>
  BitVec.eq_of_toNat_eq (by rw [← encode_decodeC8, h, encode_decodeC8])

theorem decodeC8_illegal {op : Byte} (h : 0x0B ≤ op.toNat) : decodeC8 op = .illegal op := by
  unfold decodeC8
  split
  case h_12 => rfl
  all_goals omega

/-- Every command the encoding has is the meaning of some byte. -/
theorem exists_decodeC8_eq {i : Instr} (hw : i.wellFormed = true) (hf : i.format = .c8) : ∃ op, decodeC8 op = i := by
  cases i with
  | nop => exact ⟨0x00, rfl⟩
  | crc => exact ⟨0x01, rfl⟩
  | deriveKey => exact ⟨0x02, rfl⟩
  | blockEnc => exact ⟨0x03, rfl⟩
  | blockDec => exact ⟨0x04, rfl⟩
  | encrypt => exact ⟨0x05, rfl⟩
  | decrypt => exact ⟨0x06, rfl⟩
  | serialize => exact ⟨0x07, rfl⟩
  | encode => exact ⟨0x08, rfl⟩
  | parse => exact ⟨0x09, rfl⟩
  | decode => exact ⟨0x0A, rfl⟩
  | illegal op => exact ⟨op, decodeC8_illegal (by simpa [Instr.wellFormed] using hw)⟩
  | busWr a v => cases hf
  | busRd a => cases hf

theorem mem_mayWrite_iff {i : Instr} (hw : i.wellFormed = true) (hf : i.format = .c8) (a : Nat) :
    regionAt a ∈ mayWrite i ↔ MayWriteAddr (encode i) a := by
  obtain ⟨op, rfl⟩ := exists_decodeC8_eq hw hf
  rw [encode_decodeC8, mayWrite_iff]

/-! ### What is held at an address -/

theorem regionAt_reserved {a : Nat} (h : ReservedAddr a) : regionAt a = .reserved := by
  rcases regionAt_cases a with h' | ⟨-, h'⟩ | h' | h' | h' | h' | h'
  case inr.inl => exact h'
  all_goals omega

theorem held_of_isData {s : State} {a : Nat} (h : (regionAt a).isData = true) : held s a = Memory.read s.mem a := by
  unfold held
  cases hr : regionAt a
  case sample | key | pass | inBuf | outBuf => rfl
  all_goals rw [hr] at h; cases h

theorem held_of_dataAddr {s : State} {a : Nat} (h : DataAddr a) : held s a = Memory.read s.mem a :=
  held_of_isData (isData_of_dataAddr h)

theorem held_of_reservedAddr {s : State} {a : Nat} (h : ReservedAddr a) : held s a = some 0x00 := by
  rw [held, regionAt_reserved h]

/-- Only a data byte can be undefined. -/
theorem held_isSome {s : State} {a : Nat} (h : DataAddr a → (Memory.read s.mem a).isSome = true) : (held s a).isSome = true := by
  by_cases hd : DataAddr a
  · rw [held_of_dataAddr hd]
    exact h hd
  · obtain ⟨-, -, -, -, -, -, -, -, hsample, hkey, hpass, hin, hout⟩ := regionAt_eq_iff a
    unfold held
    cases hr : regionAt a
    case sample => exact absurd (.inl (hsample.1 hr)) hd
    case key => exact absurd (.inr (.inl (hkey.1 hr))) hd
    case pass => exact absurd (.inr (.inr (.inl (hpass.1 hr)))) hd
    case inBuf => exact absurd (.inr (.inr (.inr (.inl (hin.1 hr))))) hd
    case outBuf => exact absurd (.inr (.inr (.inr (.inr (hout.1 hr))))) hd
    all_goals rfl

/-- What is held, with any value for an undefined byte, is what 20_memory.md R63 lists. -/
theorem readsHeldByte_held (s : State) (a : Nat) (free : Byte) : ReadsHeldByte s a ((held s a).getD free) := by
  refine ⟨?_, ?_, ?_, ?_, ?_, ?_, ?_, fun hd b hb => ?_, fun hr => ?_⟩
  case refine_8 => rw [held_of_dataAddr hd, hb, Option.getD_some]
  case refine_9 => rw [held_of_reservedAddr hr, Option.getD_some]
  all_goals rintro rfl; rfl

/-! ### STATUS -/

theorem statusByte_toNat : ∀ i k e d b : Bool,
    (statusByte i k e d b).toNat = 16 * i.toNat + 8 * k.toNat + 4 * e.toNat + 2 * d.toNat + b.toNat := by decide

/-- The command of this byte is pending. -/
theorem pending_iff (s : State) (op : Byte) : (s.busy && decide (decodeC8 s.cmd = decodeC8 op)) = true ↔ s.busy = true ∧ s.cmd = op := by
  rw [Bool.and_eq_true, decide_eq_true_eq, decodeC8_injective.eq_iff]

theorem statusRead_keyValid {s : State} (h : ¬ (s.busy = true ∧ s.cmd = 0x02)) : (statusRead s).getLsbD 3 = s.keyValid := by
  obtain ⟨-, -, -, hbit, -⟩ := statusByte_bits _ _ _ _ _
  exact hbit.trans (if_neg (mt (pending_iff s 0x02).1 h))

theorem statusRead_integrity {s : State} (h : ¬ (s.busy = true ∧ s.cmd = 0x0A)) : (statusRead s).getLsbD 4 = s.integrity := by
  obtain ⟨-, -, -, -, hbit, -⟩ := statusByte_bits _ _ _ _ _
  exact hbit.trans (if_neg (mt (pending_iff s 0x0A).1 h))

/-- A read of STATUS gives its true value, unless DERIVE_KEY or DECODE is pending. -/
theorem statusRead_eq_statusOf {s : State} (h : s.busy = true → s.cmd ≠ 0x02 ∧ s.cmd ≠ 0x0A) : statusRead s = statusOf s := by
  have hkey := mt (pending_iff s 0x02).1 fun ⟨hb, hc⟩ => (h hb).1 hc
  have hdecode := mt (pending_iff s 0x0A).1 fun ⟨hb, hc⟩ => (h hb).2 hc
  rw [statusRead, statusOf]
  exact congrArg₂ (statusByte · · s.errBusy s.done s.busy) (if_neg hdecode) (if_neg hkey)

/-! ### Bus reads -/

theorem busRead_status (s : State) : busRead s 0x001 = statusRead s := by
  rcases busRead_cases s 0x001 with ⟨-, hmay, -⟩ | ⟨-, h⟩ | ⟨-, h1, -⟩
  · omega
  · exact h
  · exact absurd rfl h1

theorem busRead_held {s : State} {a : Nat} (hflight : ¬ (s.busy = true ∧ MayWriteAddr s.cmd.toNat a)) (h1 : a ≠ 0x001) :
    busRead s a = (held s a).getD (Config.freeByte s.draw a) := by
  rcases busRead_cases s a with ⟨hb, hmay, -⟩ | ⟨rfl, -⟩ | ⟨-, -, h⟩
  · exact absurd ⟨hb, hmay⟩ hflight
  · exact absurd rfl h1
  · exact h

/-- A read that is not in flight gives what 20_memory.md R63 lists; for STATUS, the list says nothing. -/
theorem busRead_readsHeldByte {s : State} {a : Nat} (hflight : ¬ (s.busy = true ∧ MayWriteAddr s.cmd.toNat a)) :
    ReadsHeldByte s a (busRead s a) := by
  by_cases h1 : a = 0x001
  · subst h1
    exact ⟨nofun, nofun, nofun, nofun, nofun, nofun, nofun, fun hd => by omega, fun hr => by omega⟩
  · rw [busRead_held hflight h1]
    exact readsHeldByte_held ..

/-- Where no free draw is made, a read gives the value held. -/
theorem held_eq_some_busRead {s : State} {a : Nat} (hflight : ¬ (s.busy = true ∧ MayWriteAddr s.cmd.toNat a))
    (hstatus : a = 0x001 → s.busy = true → s.cmd ≠ 0x02 ∧ s.cmd ≠ 0x0A)
    (hdefined : DataAddr a → (Memory.read s.mem a).isSome = true) : held s a = some (busRead s a) := by
  by_cases h1 : a = 0x001
  · subst h1
    rw [busRead_status, statusRead_eq_statusOf (hstatus rfl)]
    rfl
  · obtain ⟨v, hv⟩ := Option.isSome_iff_exists.1 (held_isSome hdefined)
    rw [busRead_held hflight h1, hv, Option.getD_some]

/-- A bus read changes no codec state, so that a second read finds the same value held (20_memory.md R67). -/
theorem busRead_again {s : State} {a : Nat} (b : Addr) (v : Byte) (hflight : ¬ (s.busy = true ∧ MayWriteAddr s.cmd.toNat a))
    (hstatus : a = 0x001 → s.busy = true → s.cmd ≠ 0x02 ∧ s.cmd ≠ 0x0A)
    (hdefined : DataAddr a → (Memory.read s.mem a).isSome = true) : busRead (nextDraw (logRead b v s)) a = busRead s a := by
  refine Option.some.inj ?_
  calc some (busRead (nextDraw (logRead b v s)) a)
      = held (nextDraw (logRead b v s)) a :=
        (held_eq_some_busRead (s := nextDraw (logRead b v s)) hflight hstatus hdefined).symm
    _ = held s a := rfl
    _ = some (busRead s a) := held_eq_some_busRead hflight hstatus hdefined

/-- Settles O13: while BUSY = 0 no read is in flight, and STATUS reads as its fields. -/
theorem busReadWhileIdle : Obligations.BusReadWhileIdle := by
  intro s a hb
  have hidle : s.busy ≠ true := by simp [hb]
  refine ⟨busRead s a.toNat, rfl, busRead_readsHeldByte fun h => hidle h.1, fun h1 => ?_⟩
  rw [h1, busRead_status, statusRead_eq_statusOf fun h => absurd h hidle, statusOf, statusByte_toNat, hb]
  rfl

/-- Settles O14: a read outside `MayWrite` is not in flight, and STATUS has one arbitrary bit, if DERIVE_KEY or DECODE is pending. -/
theorem busReadWhileBusy : Obligations.BusReadWhileBusy := by
  intro s a hb
  refine ⟨busRead s a.toNat, rfl, fun hmay => busRead_readsHeldByte fun h => hmay h.2, fun h1 => ?_⟩
  rw [h1, busRead_status]
  obtain ⟨hbusy, hdone, herr, -, -, hlt⟩ : _ ∧ _ ∧ _ ∧ _ ∧ _ ∧ (statusRead s).toNat < 32 := statusByte_bits _ _ _ _ _
  exact ⟨hbusy.trans hb, hdone, herr, fun hc => statusRead_keyValid fun h => hc h.2,
    fun hc => statusRead_integrity fun h => hc h.2, hlt⟩

/-- Settles O15: both reads give the value held, which the first read leaves as it is. -/
theorem readsAreIdempotent : Obligations.ReadsAreIdempotent := by
  intro s t u a hst htu hbusy hdefined
  cases execBusRd_next hst
  cases execBusRd_next htu
  have hsame := busRead_again a (busRead s a.toNat) (fun ⟨hb, hmay⟩ => (hbusy hb).1 hmay) (fun h1 hb => (hbusy hb).2 h1) hdefined
  refine ⟨busRead s a.toNat, ?_⟩
  rw [hsame, nextDraw_readLog, logRead_readLog, nextDraw_readLog, logRead_readLog]

/-! ### Bus writes -/

theorem statusWrite_eq (v : Byte) (s : State) : statusWrite v s = { s with errBusy := if v.getLsbD 2 then false else s.errBusy } := by
  unfold statusWrite
  split <;> rfl

theorem busWrite_status (v : Byte) (s : State) : busWrite 0x001 v s = statusWrite v s := rfl

theorem busWrite_busy {a : Nat} {s : State} (v : Byte) (h1 : a ≠ 0x001) (hb : s.busy = true) : busWrite a v s = setErrBusy true s := by
  rw [busWrite, if_neg (mt (regionAt_status_iff a).1 h1), if_pos hb]

theorem busWrite_idle {a : Nat} {s : State} (v : Byte) (h1 : a ≠ 0x001) (hb : s.busy = false) : busWrite a v s = busWriteIdle a v s := by
  rw [busWrite, if_neg (mt (regionAt_status_iff a).1 h1), if_neg (by simp [hb])]

theorem busWriteIdle_hostData {a : Nat} (v : Byte) (s : State) (h : HostDataAddr a) : busWriteIdle a v s = storeBytes a [v] s := by
  rcases h with h | h | h
  · rw [busWriteIdle, regionAt_sample h]
  · rw [busWriteIdle, regionAt_pass h]
  · rw [busWriteIdle, regionAt_inBuf h]

/-- The addresses that ignore a bus write (20_memory.md R64): RESULT, CRC, RXCRC, OUT_LEN, KEY, OUT and the reserved ones. -/
abbrev ReadOnlyAddr (a : Nat) : Prop :=
  a = 0x002 ∨ a = 0x003 ∨ a = 0x004 ∨ a = 0x006 ∨ KeyAddr a ∨ OutAddr a ∨ ReservedAddr a

theorem busWriteIdle_readOnly {a : Nat} (v : Byte) (s : State) (h : ReadOnlyAddr a) : busWriteIdle a v s = s := by
  rcases h with rfl | rfl | rfl | rfl | h | h | h
  · rfl
  · rfl
  · rfl
  · rfl
  · rw [busWriteIdle, regionAt_key h]
  · rw [busWriteIdle, regionAt_outBuf h]
  · rw [busWriteIdle, regionAt_reserved h]

/-- Settles O16: the clauses are the equations of `busWrite`, one for each kind of address. -/
theorem busWriteByAddress : Obligations.BusWriteByAddress := by
  intro s a v
  have hexec : exec (.busWr a v) s = .next (busWrite a.toNat v s) := rfl
  rw [hexec]
  refine ⟨fun h => ?_, fun h1 hb => ?_, fun hb => ⟨fun h => ?_, fun h => ?_, fun h => ?_, fun h => ?_, fun h => ?_⟩⟩
  · rw [h, busWrite_status, statusWrite_eq]
  · rw [busWrite_busy v h1 hb]
    rfl
  all_goals rw [busWrite_idle v (by omega) hb]
  · rw [h]
    rfl
  · rw [h]
    rfl
  · rw [h]
    rfl
  · rw [busWriteIdle_hostData v s h]
    exact ⟨_, rfl, rfl, Memory.read_writeBytes [v] s.mem a.toNat⟩
  · rw [busWriteIdle_readOnly v s h]

/-! ### What a command leaves held -/

theorem held_setCrc {a : Nat} (v : Byte) (s : State) (ha : regionAt a ≠ .crc) : held (setCrc v s) a = held s a := by
  unfold held
  cases hr : regionAt a
  case crc => exact absurd hr ha
  all_goals rfl

theorem held_setRxcrc {a : Nat} (v : Byte) (s : State) (ha : regionAt a ≠ .rxcrc) : held (setRxcrc v s) a = held s a := by
  unfold held
  cases hr : regionAt a
  case rxcrc => exact absurd hr ha
  all_goals rfl

theorem held_setOutLen {a : Nat} (v : Byte) (s : State) (ha : regionAt a ≠ .outLen) : held (setOutLen v s) a = held s a := by
  unfold held
  cases hr : regionAt a
  case outLen => exact absurd hr ha
  all_goals rfl

theorem held_setIntegrity {a : Nat} (b : Bool) (s : State) (ha : regionAt a ≠ .status) : held (setIntegrity b s) a = held s a := by
  unfold held
  cases hr : regionAt a
  case status => exact absurd hr ha
  all_goals rfl

theorem held_setKeyValid {a : Nat} (b : Bool) (s : State) (ha : regionAt a ≠ .status) : held (setKeyValid b s) a = held s a := by
  unfold held
  cases hr : regionAt a
  case status => exact absurd hr ha
  all_goals rfl

theorem held_complete {a : Nat} (c : ResultCode) (s : State) (hs : regionAt a ≠ .status) (ha : regionAt a ≠ .result) :
    held (complete c s) a = held s a := by
  unfold held
  cases hr : regionAt a
  case status => exact absurd hr hs
  case result => exact absurd hr ha
  all_goals rfl

/-- A string leaves what is held at every address but the data bytes it covers. -/
theorem held_storeBytes {b a : Nat} {bs : List Byte} (s : State)
    (houtside : (regionAt a).isData = true → a < b ∨ b + bs.length ≤ a) : held (storeBytes b bs s) a = held s a := by
  unfold held
  cases hr : regionAt a
  case sample | key | pass | inBuf | outBuf => exact Memory.read_writeBytes_outside (houtside (hr ▸ rfl))
  all_goals rfl

/-- OUT is the last of the data regions, so that no bound on the length of the output is needed. -/
theorem held_writeOut {a : Nat} (bs : List Byte) (s : State) (hout : regionAt a ≠ .outBuf) (hlen : regionAt a ≠ .outLen) :
    held (writeOut bs s) a = held s a := by
  rw [writeOut, held_setOutLen _ _ hlen]
  refine held_storeBytes s fun hdata => .inl ?_
  unfold outBase
  rcases regionAt_cases a with ⟨h, -⟩ | ⟨-, h⟩ | ⟨-, h, -⟩ | ⟨-, h, -⟩ | ⟨-, h, -⟩ | ⟨-, h, -⟩ | ⟨-, -, h⟩
  · omega
  · rw [h] at hdata
    cases hdata
  · omega
  · omega
  · omega
  · omega
  · exact absurd h hout

theorem held_writeSample {a : Nat} (x : Sample) (s : State) (ha : regionAt a ≠ .sample) : held (writeSample x s) a = held s a := by
  refine held_storeBytes s fun _ => ?_
  have hnot : ¬ SampleAddr a := mt regionAt_sample ha
  rw [sampleBytes_length, sampleBase]
  omega

theorem held_storeKey {a : Nat} {bs : List Byte} (s : State) (full : bs.length = 16) (ha : regionAt a ≠ .key) :
    held (storeBytes keyBase bs s) a = held s a := by
  refine held_storeBytes s fun _ => ?_
  have hnot : ¬ KeyAddr a := mt regionAt_key ha
  rw [full, keyBase]
  omega

theorem result_mem_mayWrite {i : Instr} (hf : i.format = .c8) : .result ∈ mayWrite i := by
  cases i
  case busWr | busRd => cases hf
  all_goals exact List.mem_cons_self

/-- The stages of DECODE from Integrity on, at an address outside its `MayWrite` set. -/
theorem decodeFrame_held {f : List Byte} {s t : State} {a : Nat} (hs : regionAt a ≠ .status)
    (hnot : ∀ r ∈ mayWrite .decode, regionAt a ≠ r) (h : decodeFrame f s = .next t) : held t a = held s a := by
  have hresult := hnot .result (by decide)
  have hafter : held (afterIntegrity f s) a = held s a := by
    rw [afterIntegrity, held_setRxcrc _ _ (hnot .rxcrc (by decide)), held_setCrc _ _ (hnot .crc (by decide))]
  rcases decodeFrame_next h with ⟨_, rfl⟩ | ⟨_, h⟩
  · rw [held_complete _ _ hs hresult, held_setIntegrity _ _ hs, hafter]
  · rcases decodeCiphertext_next h with ⟨_, rfl⟩ | ⟨_, e, _, _, rfl⟩ | ⟨_, x, _, _, rfl⟩
    · rw [held_complete _ _ hs hresult, held_setIntegrity _ _ hs, hafter]
    · rw [held_complete _ _ hs hresult, held_setIntegrity _ _ hs, hafter]
    · rw [held_complete _ _ hs hresult, held_setIntegrity _ _ hs, held_writeSample _ _ (hnot .sample (by decide)), hafter]

/-- A command leaves what is held outside STATUS and the regions of its `MayWrite` set. -/
theorem exec_held {i : Instr} {s t : State} {a : Nat} (hf : i.format = .c8) (h : exec i s = .next t) (hs : regionAt a ≠ .status)
    (hnot : ∀ r ∈ mayWrite i, regionAt a ≠ r) : held t a = held s a := by
  have hend (c : ResultCode) (u : State) : held (complete c u) a = held u a :=
    held_complete c u hs (hnot .result (result_mem_mayWrite hf))
  have hfail (c : ResultCode) : held (complete c (setIntegrity false s)) a = held s a := by
    rw [hend, held_setIntegrity _ _ hs]
  have houtput (c : ResultCode) (bs : List Byte) (h1 : .outBuf ∈ mayWrite i) (h2 : .outLen ∈ mayWrite i) :
      held (complete c (writeOut bs s)) a = held s a := by
    rw [hend, held_writeOut _ _ (hnot _ h1) (hnot _ h2)]
  cases i with
  | nop => cases h; exact hend ..
  | crc =>
    rcases execCrc_next h with ⟨_, rfl⟩ | ⟨_, rfl⟩
    · exact hend ..
    · rw [hend, held_setCrc _ _ (hnot .crc (by decide))]
  | deriveKey =>
    rcases execDeriveKey_next h with ⟨_, rfl⟩ | ⟨_, rfl⟩
    · exact hend ..
    · rw [hend, held_setKeyValid _ _ hs, held_storeKey _ (deriveKeyBytes_length ..) (hnot .key (by decide))]
  | blockEnc =>
    rcases execBlockEnc_next h with ⟨_, rfl⟩ | ⟨_, _, rfl⟩ | ⟨_, _, rfl⟩
    · exact hend ..
    · exact hend ..
    · exact houtput _ _ (by decide) (by decide)
  | blockDec =>
    rcases execBlockDec_next h with ⟨_, rfl⟩ | ⟨_, _, rfl⟩ | ⟨_, _, rfl⟩
    · exact hend ..
    · exact hend ..
    · exact houtput _ _ (by decide) (by decide)
  | encrypt =>
    rcases execEncrypt_next h with ⟨_, rfl⟩ | ⟨_, _, rfl⟩ | ⟨_, _, rfl⟩
    · exact hend ..
    · exact hend ..
    · exact houtput _ _ (by decide) (by decide)
  | decrypt =>
    rcases execDecrypt_next h with ⟨_, rfl⟩ | ⟨_, _, rfl⟩ | ⟨_, _, _, rfl⟩ | ⟨_, _, r, _, rfl⟩
    · exact hend ..
    · exact hend ..
    · exact hend ..
    · exact houtput _ r (by decide) (by decide)
  | serialize =>
    cases execSerialize_next h
    exact houtput _ _ (by decide) (by decide)
  | encode =>
    rcases execEncode_next h with ⟨_, rfl⟩ | ⟨_, rfl⟩
    · exact hend ..
    · rw [hend, held_setCrc _ _ (hnot .crc (by decide)), held_writeOut _ _ (hnot .outBuf (by decide)) (hnot .outLen (by decide))]
  | parse =>
    rcases execParse_next h with ⟨_, rfl⟩ | ⟨_, e, _, rfl⟩ | ⟨_, x, _, rfl⟩
    · exact hend ..
    · exact hend ..
    · rw [hend, held_writeSample _ _ (hnot .sample (by decide))]
  | decode =>
    rcases execDecode_next h with ⟨_, rfl⟩ | ⟨_, _, rfl⟩ | ⟨_, _, rfl⟩ | ⟨_, _, _, h⟩
    · exact hfail _
    · exact hfail _
    · exact hfail _
    · exact decodeFrame_held hs hnot h
  | illegal op => cases h; exact hend ..
  | busWr a v => cases hf
  | busRd a => cases hf

/-- Settles O24: the regions a command writes are those of its `MayWrite` set. -/
theorem commandsWriteOnlyMayWrite : Obligations.CommandsWriteOnlyMayWrite := by
  intro i s t a hw hf h h1 hmay
  refine exec_held hf h (mt (regionAt_status_iff a).1 h1) fun r hr hra => hmay ?_
  exact (mem_mayWrite_iff hw hf a).1 (hra ▸ hr)

/-! ### The host's move -/

theorem step_hostMove {s : State} {w : Nat} {rest : List Event} (h : s.agenda = .host w :: rest) :
    step s = hostMove w (setAgenda rest s) := by
  rw [step, nextMove, h]
  rfl

/-- Settles O6: the step is the move of the agenda's first word, and that is by cases on the decoder's answer. -/
theorem hostMoveRunsTheDecodedTransaction : Obligations.HostMoveRunsTheDecodedTransaction := by
  intro s w rest ha
  rw [step_hostMove ha, hostMove]
  constructor
  · intro i hi
    rw [hi]
    rfl
  · intro e he
    rw [he]

end Sys2Proof.Machine
end

section
/-! Proofs of the encoding rules (30_encoding.md). A transaction word is its three fields and its fields give it back (`decode_tw_word`, `tw_word_of_fields`), as a command byte is the opcode of its command (`encode_decodeC8`, `exists_decodeC8_eq`); both directions of the round trip follow format by format. -/

namespace Sys2Proof.Machine

/-! ### Transaction words -/

/-- What the decoder answers to each word of 19 bits, given by its fields `W`, `A` and `V` (30_encoding.md R90, R93). -/
theorem decode_tw_word (wr : Bool) (a : Addr) (v : Byte) :
    decode .tw (wr.toNat * 0x40000 + a.toNat * 2 ^ 8 + v.toNat)
      = if wr then .ok (.busWr a v) else if v = 0 then .ok (.busRd a) else .error .readCarriesData := by
  have ha := a.isLt
  have hv := v.isLt
  have hwr := wr.toNat_lt
  have hlt : wr.toNat * 0x40000 + a.toNat * 2 ^ 8 + v.toNat < 2 ^ 19 := by omega
  have hbit : (wr.toNat * 0x40000 + a.toNat * 2 ^ 8 + v.toNat).testBit 18 = wr := by
    rw [testBit_18 hlt]
    cases wr with
    | false => exact decide_eq_false (by rw [Bool.toNat_false]; omega)
    | true => exact decide_eq_true (by rw [Bool.toNat_true]; omega)
  rw [decode_tw hlt, decodeTw, hbit, twAddr_word, twByte_word]

theorem decode_tw_write (a : Addr) (v : Byte) : decode .tw (0x40000 + a.toNat * 2 ^ 8 + v.toNat) = .ok (.busWr a v) :=
  decode_tw_word true a v

theorem decode_tw_read (a : Addr) : decode .tw (a.toNat * 2 ^ 8) = .ok (.busRd a) := by
  simpa using decode_tw_word false a 0

theorem decode_tw_readCarriesData (a : Addr) {v : Byte} (hv : v ≠ 0) :
    decode .tw (a.toNat * 2 ^ 8 + v.toNat) = .error .readCarriesData := by
  simpa using (decode_tw_word false a v).trans (if_neg hv)

/-- A word of 19 bits is its fields: no bit lies outside them. -/
theorem tw_word_of_fields {w : Nat} (h : w < 2 ^ 19) :
    (w.testBit 18).toNat * 0x40000 + (twAddr w).toNat * 2 ^ 8 + (twByte w).toNat = w := by
  rw [testBit_18 h, twAddr, twByte, BitVec.toNat_ofNat, BitVec.toNat_ofNat]
  by_cases hw : 2 ^ 18 ≤ w
  · rw [decide_eq_true hw, Bool.toNat_true]
    omega
  · rw [decide_eq_false hw, Bool.toNat_false]
    omega

/-- What the decoder accepts as a transaction is the word of that transaction. -/
theorem encode_of_decode_tw {w : Nat} {i : Instr} (h : decode .tw w = .ok i) : encode i = w := by
  by_cases hlt : w < 2 ^ 19
  · have hw := tw_word_of_fields hlt
    rw [decode_tw hlt, decodeTw] at h
    split at h
    · next hbit =>
      cases h
      simpa [encode, hbit] using hw
    · next hbit =>
      split at h
      · next hv =>
        cases h
        simpa [encode, hbit, hv] using hw
      · cases h
  · rw [decode_tw_tooWide hlt] at h
    cases h

/-! ### Command bytes -/

/-- A number that decodes as a command is a byte, and the command is the one the map of 30_encoding.md R92 gives it. -/
theorem decode_c8_eq_ok {w : Nat} {i : Instr} (h : decode .c8 w = .ok i) : w < 2 ^ 8 ∧ decodeC8 (BitVec.ofNat 8 w) = i := by
  by_cases hlt : w < 2 ^ 8
  · rw [decode_c8 hlt] at h
    exact ⟨hlt, Except.ok.inj h⟩
  · rw [decode_c8_tooWide hlt] at h
    cases h

/-- The map's last entry is reached only from `0x0B` on. -/
theorem decodeC8_wellFormed (op : Byte) : (decodeC8 op).wellFormed = true := by
  unfold decodeC8
  split
  case h_12 =>
    simp only [imp_false] at *
    exact decide_eq_true (by omega)
  all_goals rfl

/-! ### The round trip -/

/-- Settles O1: a command is the meaning of its opcode byte, and a transaction's word is its fields. -/
theorem decodeOfEncodeIsTheInstruction : Obligations.DecodeOfEncodeIsTheInstruction := by
  intro i hw
  rcases format_c8_or_bus i with hf | ⟨a, v, rfl⟩ | ⟨a, rfl⟩
  · obtain ⟨op, rfl⟩ := exists_decodeC8_eq hw hf
    rw [hf, encode_decodeC8, decode_c8_byte]
  · exact decode_tw_write a v
  · exact decode_tw_read a

/-- Settles O2, format by format: `encode_decodeC8` for a command byte, `encode_of_decode_tw` for a transaction word. -/
theorem decodedWordIsTheEncodingOfItsInstruction : Obligations.DecodedWordIsTheEncodingOfItsInstruction := by
  intro f w i h
  cases f with
  | c8 =>
    obtain ⟨hlt, rfl⟩ := decode_c8_eq_ok h
    exact ⟨decodeC8_wellFormed _, decodeC8_format _, by rw [encode_decodeC8, BitVec.toNat_ofNat, Nat.mod_eq_of_lt hlt]⟩
  | tw =>
    have hw := encode_of_decode_tw h
    rcases decode_tw_cases h with ⟨a, v, rfl⟩ | ⟨a, rfl⟩ <;> exact ⟨rfl, rfl, hw⟩

/-! ### The tables of words -/

/-- Settles O5: the three kinds of word of 19 bits by their fields, and the width check for the rest. -/
theorem transactionWordFields : Obligations.TransactionWordFields :=
  ⟨decode_tw_write, decode_tw_read, fun a _ hv => decode_tw_readCarriesData a hv, fun _ hw => decode_tw_tooWide (Nat.not_lt.2 hw)⟩

/-- Settles O3: eleven entries of the map, and `decodeC8_illegal` for the rest of the bytes. -/
theorem opcodeMapDecodes : Obligations.OpcodeMapDecodes :=
  ⟨rfl, rfl, rfl, rfl, rfl, rfl, rfl, rfl, rfl, rfl, rfl, fun op h => by rw [decode_c8_byte, decodeC8_illegal h]⟩

/-- Settles O4: each word is written by its fields. -/
theorem transactionWordExamplesDecode : Obligations.TransactionWordExamplesDecode :=
  ⟨decode_tw_write 0x000 0x01, decode_tw_write 0x100 0x31, decode_tw_write 0x005 0x09, decode_tw_read 0x003, decode_tw_write 0x001 0x04⟩

/-! ### Placed words -/

theorem decode_of_decodeTableWord {nbits w : Nat} {i : Instr} (h : decodeTableWord nbits w = some i) :
    decode (formatOfWidth nbits) w = .ok i := by
  unfold decodeTableWord at h
  cases hd : decode (formatOfWidth nbits) w with
  | ok j => rw [hd] at h; exact congrArg _ (Option.some.inj h)
  | error e => rw [hd] at h; cases h

theorem formatOfWidth_tw {nbits : Nat} (h : 8 < nbits) : formatOfWidth nbits = .tw := if_neg (by omega)

theorem step_placeCommand (v : Byte) (s : State) : step (placeCommand v s) = exec (decodeC8 v) (issue v s) := rfl

/-- Settles O9: a command byte is the engine's next move, and a transaction word is the host's, whose step is `hostMoveRunsTheDecodedTransaction`. -/
theorem placedWordRunsNext : Obligations.PlacedWordRunsNext := by
  constructor
  · intro s w i h
    obtain ⟨-, rfl⟩ := decode_c8_eq_ok (decode_of_decodeTableWord h)
    exact step_placeCommand ..
  · intro s nbits w i hn h
    have hd := decode_of_decodeTableWord h
    rw [formatOfWidth_tw hn] at hd
    rw [State.withFetchWord, formatOfWidth_tw hn]
    exact (hostMoveRunsTheDecodedTransaction (placeTransaction w s) w s.agenda rfl).1 i hd

end Sys2Proof.Machine
end

section
/-! Proofs of the command engine's rules (40_command_engine.md). The engine's turn is by BUSY (`engineMove_busy`, `engineMove_idle`), a command's end is by what every completion does (`CommandEnds.completes`), and NoKey is the outcome of the check that the commands of `NEEDS_KEY` alone make. -/

namespace Sys2Proof.Machine

/-! ### The engine's turn -/

theorem engineMove_busy {s : State} (h : s.busy = true) : engineMove s = exec (decodeC8 s.cmd) s := if_pos h

theorem engineMove_idle {s : State} (h : s.busy = false) : engineMove s = .next s := if_neg (ne_true_of_eq_false h)

/-- With nothing on the agenda the engine has the turn. -/
theorem step_emptyAgenda {s : State} (h : s.agenda = []) : step s = engineMove s := by
  rw [step, nextMove, h]

theorem step_engineMove {s : State} {rest : List Event} (h : s.agenda = .engine :: rest) :
    step s = engineMove (setAgenda rest s) := by
  rw [step, nextMove, h]
  rfl

/-- Settles O7: either way the engine has the turn, and the command it runs is the one the latched byte decodes to. -/
theorem engineMoveRunsTheLatchedCommand : Obligations.EngineMoveRunsTheLatchedCommand := by
  intro s i hb hd
  obtain rfl : decodeC8 s.cmd = i := Except.ok.inj ((decode_c8_byte s.cmd).symm.trans hd)
  constructor
  · intro ha
    rw [step_emptyAgenda ha, engineMove_busy hb]
  · intro rest ha
    exact (step_engineMove ha).trans (engineMove_busy hb)

/-- Settles O8: the engine's turn, as in O7, is no step while BUSY = 0. -/
theorem idleEngineHasNoStep : Obligations.IdleEngineHasNoStep := by
  intro s hb
  constructor
  · intro ha
    rw [step_emptyAgenda ha, engineMove_idle hb]
  · intro rest ha
    exact (step_engineMove ha).trans (engineMove_idle hb)

/-! ### Completion -/

/-- A command that only completes changes what 40_command_engine.md R121 lists. -/
theorem finish_eq_ended (c : ResultCode) (s : State) : finish c s = .next (ended c.code s) := rfl

/-- Settles O18: NOP does nothing but complete. -/
theorem nopCompletesWithOk : Obligations.NopCompletesWithOk :=
  ⟨rfl, finish_eq_ended .ok⟩

/-- Settles O19: from `0x0B` on every byte is the map's last entry. -/
theorem illegalOpcodeCompletesWithIllegalCommand : Obligations.IllegalOpcodeCompletesWithIllegalCommand := fun op s h =>
  ⟨by rw [decode_c8_byte, decodeC8_illegal h], finish_eq_ended .illegalCommand s⟩

theorem CommandEnds.completes {s t : State} (h : CommandEnds s t) : t.busy = false ∧ t.done = true ∧ t.result.toNat ≤ 9 := by
  obtain ⟨-, c⟩ := h
  exact ⟨rfl, rfl, code_le_nine c⟩

/-- Settles O20: a command answers a next state, and every way a command ends is a completion. -/
theorem everyCommandCompletes : Obligations.EveryCommandCompletes := by
  intro i s hf
  obtain ⟨t, ht⟩ := exec_answers i s
  have ends := exec_command_next hf ht
  obtain ⟨hbusy, hdone, hresult⟩ := ends.completes
  obtain ⟨hcmd, -⟩ := ends.hostRegisters
  exact ⟨t, ht, hbusy, hdone, hresult, hcmd⟩

/-! ### The key check -/

/-- A command of `NEEDS_KEY` stops at the key check, and DECODE, as whenever it fails, clears INTEGRITY. -/
theorem exec_keyMissing {i : Instr} {s : State} (hi : i ∈ needsKey) (hk : s.keyValid = false) :
    exec i s = .next (complete .noKey (setIntegrity (if i = .decode then false else s.integrity) s)) := by
  simp only [needsKey, List.mem_cons, List.not_mem_nil, or_false] at hi
  obtain rfl | rfl | rfl | rfl | rfl | rfl := hi
  case inr.inr.inr.inr.inr =>
    show execDecode s = _
    rw [execDecode, hk]
    rfl
  all_goals exact withKey_missing hk _

/-- Of the commands outside `NEEDS_KEY` none makes the key check. -/
theorem exec_keyless_code {i : Instr} {s t : State} (hf : i.format = .c8) (hi : i ∉ needsKey) (h : exec i s = .next t) :
    ∃ c : ResultCode, c ≠ .noKey ∧ t.result = c.code := by
  cases i with
  | nop => cases h; exact ⟨.ok, nofun, rfl⟩
  | crc =>
    rcases execCrc_next h with ⟨_, rfl⟩ | ⟨_, rfl⟩
    · exact ⟨.lengthError, nofun, rfl⟩
    · exact ⟨.ok, nofun, rfl⟩
  | deriveKey =>
    rcases execDeriveKey_next h with ⟨_, rfl⟩ | ⟨_, rfl⟩
    · exact ⟨.keyLocked, nofun, rfl⟩
    · exact ⟨.ok, nofun, rfl⟩
  | serialize => cases execSerialize_next h; exact ⟨.ok, nofun, rfl⟩
  | parse =>
    rcases execParse_next h with ⟨_, rfl⟩ | ⟨_, e, he, rfl⟩ | ⟨_, x, _, rfl⟩
    · exact ⟨.lengthError, nofun, rfl⟩
    · refine ⟨e, ?_, rfl⟩
      rcases parsePayload_error he with rfl | rfl <;> exact nofun
    · exact ⟨.ok, nofun, rfl⟩
  | illegal op => cases h; exact ⟨.illegalCommand, nofun, rfl⟩
  | blockEnc | blockDec | encrypt | decrypt | encode | decode => exact absurd (by decide) hi
  | busWr a v => cases hf
  | busRd a => cases hf

theorem code_eq_noKey_iff (c : ResultCode) : c.code = 0x06 ↔ c = .noKey := by cases c <;> decide

/-- Settles O21: the check itself for the commands of `NEEDS_KEY`, and the codes of the others one by one. -/
theorem keyCommandsNeedAKey : Obligations.KeyCommandsNeedAKey := by
  refine ⟨rfl, fun i s hf => ⟨exec_keyMissing, fun hi t h => ?_⟩⟩
  obtain ⟨c, hc, hresult⟩ := exec_keyless_code hf hi h
  rwa [hresult, ne_eq, code_eq_noKey_iff]

/-! ### The input view -/

/-- Settles O25: `inBytes` reads IN_LEN bytes from `0x100` on, a defined one as it stands. -/
theorem inputViewHoldsTheDefinedBytes : Obligations.InputViewHoldsTheDefinedBytes := by
  intro s
  refine ⟨memRead_length .., fun i b hi hb => ?_⟩
  rw [inBytes, memRead_getElem?, if_pos hi, inBase, byteAt_defined hb]

end Sys2Proof.Machine
end

section
/-! Proofs of the checksum unit's rules (41_checksum.md). One iteration of R140 is linear and injective, and so is all that is made of iterations: the properties of R143 follow. As a polynomial an iteration is multiplication by `x` modulo the generator (`residue_crcShift`), which gives the polynomial reading of R141. -/

namespace Sys2Proof.Machine

/-! ### The CRC command -/

/-- Settles O27: the length check fails or passes. -/
theorem crcCommand : Obligations.CrcCommand :=
  ⟨rfl, fun _ => ⟨fun h => withInput_tooLong h _, fun h => withInput_fits h _⟩⟩

/-! ### The reduction is linear -/

theorem crcShift_eq (r : Byte) : crcShift r = (r <<< 1) ^^^ (if r.getLsbD 7 then crcPoly else 0) := by
  rw [crcShift]
  split
  · rfl
  · exact BitVec.xor_zero.symm

theorem crcShift_xor (x y : Byte) : crcShift (x ^^^ y) = crcShift x ^^^ crcShift y := by
  have feedback : (if (x ^^^ y).getLsbD 7 then crcPoly else 0)
      = (if x.getLsbD 7 then crcPoly else 0) ^^^ (if y.getLsbD 7 then crcPoly else 0) := by
    rw [BitVec.getLsbD_xor]
    cases x.getLsbD 7 <;> cases y.getLsbD 7 <;> rfl
  rw [crcShift_eq, crcShift_eq x, crcShift_eq y, feedback, BitVec.shiftLeft_xor_distrib]
  ac_rfl

theorem crcShifts_xor (n : Nat) (x y : Byte) : crcShifts n (x ^^^ y) = crcShifts n x ^^^ crcShifts n y := by
  induction n generalizing x y with
  | zero => rfl
  | succ n ih => rw [crcShifts, crcShift_xor, ih]; rfl

theorem crcShifts_zero (n : Nat) : crcShifts n 0#8 = 0#8 := by
  have h := crcShifts_xor n 0 0
  rwa [BitVec.xor_self, BitVec.xor_self] at h

theorem crc8Step_xor (r r' b b' : Byte) : crc8Step (r ^^^ r') (b ^^^ b') = crc8Step r b ^^^ crc8Step r' b' := by
  rw [crc8Step, crc8Step, crc8Step, ← crcShifts_xor]
  congr 1
  ac_rfl

/-- A byte equal to the register leaves zero. -/
theorem crc8Step_self (r : Byte) : crc8Step r r = 0#8 := by rw [crc8Step, BitVec.xor_self, crcShifts_zero]

theorem foldl_crc8Step_xor {xs ys : List Byte} (h : xs.length = ys.length) (r r' : Byte) :
    (List.zipWith (fun x y => x ^^^ y) xs ys).foldl crc8Step (r ^^^ r') = xs.foldl crc8Step r ^^^ ys.foldl crc8Step r' := by
  induction xs generalizing ys r r' with
  | nil => rw [List.eq_nil_of_length_eq_zero h.symm]; rfl
  | cons x xs ih =>
    cases ys with
    | nil => cases h
    | cons y ys =>
      rw [List.zipWith_cons_cons, List.foldl_cons, crc8Step_xor]
      exact ih (Nat.succ.inj h) ..

theorem checksum_xor {xs ys : List Byte} (h : xs.length = ys.length) :
    checksum (List.zipWith (fun x y => x ^^^ y) xs ys) = checksum xs ^^^ checksum ys :=
  foldl_crc8Step_xor h crcInit crcInit

theorem checksum_append_checksum (bs : List Byte) : checksum (bs ++ [checksum bs]) = 0x00 := by
  rw [checksum, List.foldl_append]
  exact crc8Step_self _

theorem checksum_replicate_zero_append (n : Nat) (bs : List Byte) : checksum (List.replicate n 0x00 ++ bs) = checksum bs := by
  induction n with
  | zero => rfl
  | succ n ih =>
    rw [List.replicate_succ, List.cons_append, checksum, List.foldl_cons]
    -- The register is `crcInit`, which is the byte that comes in.
    rw [show crc8Step crcInit 0x00 = crcInit from crc8Step_self 0x00]
    exact ih

/-! ### The reduction is injective -/

/-- The generator has constant term 1: the low bit tells what was shifted out. -/
theorem eq_zero_of_crcShift_eq_zero {r : Byte} (h : crcShift r = 0#8) : r = 0#8 := by
  revert r
  decide

theorem crcShift_injective : Function.Injective crcShift := by
  intro x y h
  have hxy : crcShift (x ^^^ y) = 0#8 := by rw [crcShift_xor, h, BitVec.xor_self]
  exact BitVec.xor_eq_zero_iff.1 (eq_zero_of_crcShift_eq_zero hxy)

theorem crcShifts_injective (n : Nat) : Function.Injective (crcShifts n) := by
  induction n with
  | zero => exact fun _ _ h => h
  | succ n ih => exact ih.comp crcShift_injective

theorem crc8Step_injective_register (b : Byte) : Function.Injective (fun r => crc8Step r b) :=
  fun _ _ h => (BitVec.xor_left_inj b).1 (crcShifts_injective 8 h)

theorem crc8Step_injective_byte (r : Byte) : Function.Injective (crc8Step r) :=
  fun _ _ h => (BitVec.xor_right_inj r).1 (crcShifts_injective 8 h)

theorem foldl_crc8Step_injective (bs : List Byte) : Function.Injective (fun r => bs.foldl crc8Step r) := by
  induction bs with
  | nil => exact fun _ _ h => h
  | cons b bs ih => exact ih.comp (crc8Step_injective_register b)

theorem foldl_crc8Step_modify_ne {f : Byte → Byte} (hf : ∀ b, f b ≠ b) {bs : List Byte} {i : Nat} (hi : i < bs.length) (r : Byte) :
    (bs.modify i f).foldl crc8Step r ≠ bs.foldl crc8Step r := by
  induction bs generalizing i r with
  | nil => exact absurd hi (Nat.not_lt_zero _)
  | cons b bs ih =>
    cases i with
    | zero => exact fun h => hf b (crc8Step_injective_byte r (foldl_crc8Step_injective bs h))
    | succ i => exact ih (Nat.lt_of_succ_lt_succ hi) _

/-- An error in a single byte is detected. -/
theorem checksum_modify_ne {f : Byte → Byte} (hf : ∀ b, f b ≠ b) {bs : List Byte} {i : Nat} (hi : i < bs.length) :
    checksum (bs.modify i f) ≠ checksum bs :=
  foldl_crc8Step_modify_ne hf hi crcInit

theorem flipBit_ne {j : Nat} (hj : j < 8) (b : Byte) : b ^^^ (1#8 <<< j) ≠ b := by
  intro h
  have hbit := congrArg (fun v => v.getLsbD j) h
  simp [hj] at hbit

/-- Settles O29: the reduction is injective for the first property, and linear for the others. -/
theorem checksumProperties : Obligations.ChecksumProperties :=
  ⟨fun _ _ _ hi hj => checksum_modify_ne (flipBit_ne hj) hi, fun _ _ h => checksum_xor h, checksum_append_checksum,
    checksum_replicate_zero_append⟩

/-! ### Bytes as polynomials over GF(2) -/

open Polynomial (X)

/-- `G(x) = x^8 + x^2 + x + 1` (41_checksum.md R141). -/
noncomputable def generatorPoly : Polynomial (ZMod 2) := X ^ 8 + X ^ 2 + X + 1

/-- Polynomials modulo the generator. -/
noncomputable def residue : Polynomial (ZMod 2) →+* AdjoinRoot generatorPoly := AdjoinRoot.mk generatorPoly

theorem coeff_sum_range_bits (f : Nat → Bool) (n i : Nat) :
    (((List.range n).map (fun k => if f k then (X : Polynomial (ZMod 2)) ^ k else 0)).sum).coeff i = if i < n ∧ f i then 1 else 0 := by
  induction n with
  | zero => simp
  | succ n ih =>
    rw [List.range_succ, List.map_append, List.sum_append, Polynomial.coeff_add, ih, List.map_singleton, List.sum_singleton,
      apply_ite (fun p => Polynomial.coeff p i), Polynomial.coeff_X_pow]
    rcases Nat.lt_trichotomy i n with h | rfl | h
    · simp [h, h.ne, Nat.lt_succ_of_lt h]
    · simp
    · simp [h.ne', h.not_gt, show ¬ i < n + 1 by omega]

theorem bytePoly_coeff (b : Byte) (i : Nat) : (bytePoly b).coeff i = if b.getLsbD i then 1 else 0 := by
  rw [bytePoly, coeff_sum_range_bits]
  congr 1
  exact propext ⟨fun h => h.2, fun h => ⟨BitVec.lt_of_getLsbD h, h⟩⟩

theorem bytePoly_degree_lt (b : Byte) : (bytePoly b).degree < 8 := by
  rw [show (8 : WithBot ℕ) = ((8 : ℕ) : WithBot ℕ) from rfl, Polynomial.degree_lt_iff_coeff_zero]
  intro i hi
  rw [bytePoly_coeff, BitVec.getLsbD_of_ge b i hi]
  rfl

theorem bytePoly_zero : bytePoly 0#8 = 0 := by
  ext i
  rw [bytePoly_coeff, BitVec.getLsbD_zero]
  rfl

theorem bytePoly_xor (x y : Byte) : bytePoly (x ^^^ y) = bytePoly x + bytePoly y := by
  ext i
  simp only [Polynomial.coeff_add, bytePoly_coeff, BitVec.getLsbD_xor]
  cases x.getLsbD i <;> cases y.getLsbD i <;> decide

theorem bytePoly_crcPoly : bytePoly crcPoly = 1 + (X + X ^ 2) := by
  simp [bytePoly, crcPoly, List.range, List.range.loop]

/-- Each `x^i` of a set bit becomes `x^(i + 1)`; the shifted byte lacks the `x^8` of the top bit. -/
theorem bytePoly_shiftLeft_one (r : Byte) : bytePoly (r <<< 1) + (if r.getLsbD 7 then X ^ 8 else 0) = X * bytePoly r := by
  simp [bytePoly, List.range, List.range.loop, mul_add, ← pow_succ', ← sq, add_assoc]

/-- `crcPoly` is `G(x)` without its `x^8`, so the feedback makes up for the lost bit and adds `G`. -/
theorem bytePoly_crcShift (r : Byte) : bytePoly (crcShift r) = X * bytePoly r + if r.getLsbD 7 then generatorPoly else 0 := by
  rw [crcShift_eq, bytePoly_xor, ← bytePoly_shiftLeft_one]
  cases r.getLsbD 7
  · simp [bytePoly_zero]
  · have double : (X ^ 8 + X ^ 8 : Polynomial (ZMod 2)) = 0 := CharTwo.add_self_eq_zero _
    simp only [if_true, bytePoly_crcPoly, generatorPoly]
    linear_combination -double

/-- One iteration of R140 multiplies by `x` modulo the generator. -/
theorem residue_crcShift (r : Byte) : residue (bytePoly (crcShift r)) = residue (X * bytePoly r) := by
  have hG : residue (if r.getLsbD 7 then generatorPoly else 0) = 0 := by
    split
    · exact AdjoinRoot.mk_self
    · exact map_zero _
  rw [bytePoly_crcShift, map_add, hG, add_zero]

theorem residue_crcShifts (n : Nat) (r : Byte) : residue (bytePoly (crcShifts n r)) = residue (X ^ n * bytePoly r) := by
  induction n generalizing r with
  | zero => rw [crcShifts, pow_zero, one_mul]
  | succ n ih => rw [crcShifts, ih, map_mul, residue_crcShift, ← map_mul, ← mul_assoc, ← pow_succ]

theorem residue_crc8Step {r : Byte} {p : Polynomial (ZMod 2)} (h : residue (bytePoly r) = residue (p * X ^ 8)) (b : Byte) :
    residue (bytePoly (crc8Step r b)) = residue ((p * X ^ 8 + bytePoly b) * X ^ 8) := by
  rw [crc8Step, residue_crcShifts, bytePoly_xor, mul_comm, map_mul, map_add, h, ← map_add, ← map_mul]

/-- The register is the residue of the string read so far, times `x^8`. -/
theorem residue_foldl_crc8Step (bs : List Byte) {r : Byte} {p : Polynomial (ZMod 2)} (h : residue (bytePoly r) = residue (p * X ^ 8)) :
    residue (bytePoly (bs.foldl crc8Step r)) = residue (bs.foldl (fun p b => p * X ^ 8 + bytePoly b) p * X ^ 8) := by
  induction bs generalizing r p with
  | nil => exact h
  | cons b bs ih => exact ih (residue_crc8Step h b)

theorem residue_checksum (bs : List Byte) : residue (bytePoly (checksum bs)) = residue (stringPoly bs * X ^ 8) := by
  refine residue_foldl_crc8Step bs ?_
  rw [zero_mul]
  exact congrArg residue bytePoly_zero

/-- Settles O28: equal residues differ by a multiple of the generator. -/
theorem checksumIsThePolynomialRemainder : Obligations.ChecksumIsThePolynomialRemainder := by
  intro bs
  obtain ⟨q, hq⟩ := AdjoinRoot.mk_eq_mk.1 (residue_checksum bs).symm
  refine ⟨bytePoly_degree_lt _, q, ?_⟩
  rw [← generatorPoly, mul_comm q, ← hq, sub_add_cancel]

end Sys2Proof.Machine
end

section
/-! Proofs of the block cipher core's rules (42_cipher.md, 43_cipher_aes128_reference.md). AES-128 is undone round by round; the one step whose inverse is not plain from its definition, MixColumns, is a product of polynomials over GF(2^8) (`columnMul_assoc`), in which `gmul` is the multiplication (`toField_gmul`). A string is deciphered block by block, and `decrypt` is described by the padding it finds (`PaddedBy`, `decryptBytes_eq_some_iff`). -/

namespace Sys2Proof.Machine

/-! ### Multiplication in GF(2^8) -/

open Polynomial (X)

/-- `x^8 + x^4 + x^3 + x + 1`, the modulus of GF(2^8) (43_cipher_aes128_reference.md R202). -/
noncomputable def fieldPoly : Polynomial (ZMod 2) := X ^ 8 + (X ^ 4 + X ^ 3 + X + 1)

/-- A byte as an element of GF(2^8): its polynomial modulo `fieldPoly`. -/
noncomputable def toField (b : Byte) : AdjoinRoot fieldPoly := AdjoinRoot.mk fieldPoly (bytePoly b)

theorem toField_zero : toField 0#8 = 0 := by rw [toField, bytePoly_zero, map_zero]

theorem toField_xor (x y : Byte) : toField (x ^^^ y) = toField x + toField y := by
  rw [toField, bytePoly_xor, map_add]; rfl

theorem fieldPoly_degree : fieldPoly.degree = 8 := by
  rw [fieldPoly]; compute_degree!

theorem toField_injective : Function.Injective toField := by
  intro x y h
  have hdvd : fieldPoly ∣ bytePoly (x ^^^ y) := by
    rw [← AdjoinRoot.mk_eq_zero]
    change toField (x ^^^ y) = 0
    rw [toField_xor, h, ← toField_xor, BitVec.xor_self, toField_zero]
  have hzero := Polynomial.eq_zero_of_dvd_of_degree_lt hdvd (fieldPoly_degree ▸ bytePoly_degree_lt _)
  refine BitVec.xor_eq_zero_iff.1 (BitVec.eq_of_getLsbD_eq fun i _ => ?_)
  have hcoeff := bytePoly_coeff (x ^^^ y) i
  rw [hzero, Polynomial.coeff_zero] at hcoeff
  simpa using hcoeff.symm

theorem bytePoly_reduction : bytePoly 0x1B#8 = X ^ 4 + X ^ 3 + X + 1 := by
  simp [bytePoly, List.range, List.range.loop]
  ring

/-- `xtime` multiplies by `x`. -/
theorem toField_xtime (a : Byte) : toField (xtime a) = AdjoinRoot.root fieldPoly * toField a := by
  rw [toField, toField, ← AdjoinRoot.mk_X, ← map_mul, ← bytePoly_shiftLeft_one, xtime]
  cases a.getLsbD 7
  · simp
  · have double : (X ^ 8 + X ^ 8 : Polynomial (ZMod 2)) = 0 := CharTwo.add_self_eq_zero _
    rw [if_pos rfl, if_pos rfl, bytePoly_xor, bytePoly_reduction, AdjoinRoot.mk_eq_mk, fieldPoly]
    exact ⟨1, by linear_combination -double⟩

theorem sum_range_succ_bits (f : Nat → Bool) (n : Nat) :
    ((List.range (n + 1)).map (fun i => if f i then (X : Polynomial (ZMod 2)) ^ i else 0)).sum
      = (if f 0 then 1 else 0) + X * ((List.range n).map (fun i => if f (i + 1) then X ^ i else 0)).sum := by
  rw [List.range_succ_eq_map, List.map_cons, List.sum_cons, List.map_map, ← List.sum_map_mul_left, pow_zero]
  simp only [mul_ite, ← pow_succ', mul_zero, Function.comp_def, Nat.succ_eq_add_one]

theorem toField_gmulBits (n : Nat) (a b : Byte) :
    toField (gmulBits n a b)
      = toField a * AdjoinRoot.mk fieldPoly ((List.range n).map (fun i => if b.getLsbD i then X ^ i else 0)).sum := by
  induction n generalizing a b with
  | zero => simp [gmulBits, toField_zero]
  | succ n ih =>
    have hbit : toField (if b.getLsbD 0 then a else 0) = toField a * AdjoinRoot.mk fieldPoly (if b.getLsbD 0 then 1 else 0) := by
      cases b.getLsbD 0
      · simpa using toField_zero
      · simp
    rw [gmulBits, toField_xor, ih, toField_xtime, sum_range_succ_bits, map_add, map_mul, AdjoinRoot.mk_X, hbit]
    simp only [BitVec.getLsbD_ushiftRight, Nat.add_comm 1]
    ring

theorem toField_gmul (a b : Byte) : toField (gmul a b) = toField a * toField b := toField_gmulBits 8 a b

/-! ### MixColumns and its inverse -/

/-- The product of two columns as polynomials over GF(2^8) modulo `x^4 + 1`. -/
def columnMul (m a : Column) : Column :=
  ⟨mixRow m.b0 m.b3 m.b2 m.b1 a, mixRow m.b1 m.b0 m.b3 m.b2 a, mixRow m.b2 m.b1 m.b0 m.b3 a, mixRow m.b3 m.b2 m.b1 m.b0 a⟩

theorem mixColumn_eq (a : Column) : mixColumn a = columnMul ⟨0x02, 0x01, 0x01, 0x03⟩ a := rfl

theorem invMixColumn_eq (a : Column) : invMixColumn a = columnMul ⟨0x0E, 0x09, 0x0D, 0x0B⟩ a := rfl

theorem toField_mixRow (m0 m1 m2 m3 : Byte) (a : Column) :
    toField (mixRow m0 m1 m2 m3 a)
      = toField m0 * toField a.b0 + toField m1 * toField a.b1 + toField m2 * toField a.b2 + toField m3 * toField a.b3 := by
  simp only [mixRow, toField_xor, toField_gmul]

theorem columnMul_assoc (l m a : Column) : columnMul l (columnMul m a) = columnMul (columnMul l m) a := by
  unfold columnMul
  congr 1 <;> (apply toField_injective; simp only [toField_mixRow]; ring)

theorem columnMul_one (a : Column) : columnMul ⟨0x01, 0x00, 0x00, 0x00⟩ a = a := by
  have hone : toField 0x01 = 1 := by simp [toField, bytePoly, List.range, List.range.loop]
  have hzero : toField 0x00 = 0 := toField_zero
  obtain ⟨b0, b1, b2, b3⟩ := a
  unfold columnMul
  congr 1 <;> (apply toField_injective; simp only [toField_mixRow, hone, hzero]; ring)

theorem invMixColumn_mixColumn (a : Column) : invMixColumn (mixColumn a) = a := by
  rw [mixColumn_eq, invMixColumn_eq, columnMul_assoc,
    show columnMul ⟨0x0E, 0x09, 0x0D, 0x0B⟩ ⟨0x02, 0x01, 0x01, 0x03⟩ = ⟨0x01, 0x00, 0x00, 0x00⟩ by decide, columnMul_one]

theorem mixColumn_invMixColumn (a : Column) : mixColumn (invMixColumn a) = a := by
  rw [mixColumn_eq, invMixColumn_eq, columnMul_assoc,
    show columnMul ⟨0x02, 0x01, 0x01, 0x03⟩ ⟨0x0E, 0x09, 0x0D, 0x0B⟩ = ⟨0x01, 0x00, 0x00, 0x00⟩ by decide, columnMul_one]

@[simp] theorem invMixColumns_mixColumns (s : Columns) : invMixColumns (mixColumns s) = s := by
  simp only [invMixColumns, mixColumns, Columns.map, invMixColumn_mixColumn]

@[simp] theorem mixColumns_invMixColumns (s : Columns) : mixColumns (invMixColumns s) = s := by
  simp only [invMixColumns, mixColumns, Columns.map, mixColumn_invMixColumn]

/-! ### The other round transformations and their inverses -/

theorem invSbox_sbox : ∀ a : Byte, invSbox (sbox a) = a := by decide

theorem sbox_invSbox : ∀ a : Byte, sbox (invSbox a) = a := by decide

@[simp] theorem invSubBytes_subBytes (s : Columns) : invSubBytes (subBytes s) = s := by
  simp only [invSubBytes, subBytes, Columns.map, Column.map, invSbox_sbox]

@[simp] theorem subBytes_invSubBytes (s : Columns) : subBytes (invSubBytes s) = s := by
  simp only [invSubBytes, subBytes, Columns.map, Column.map, sbox_invSbox]

@[simp] theorem invShiftRows_shiftRows (s : Columns) : invShiftRows (shiftRows s) = s := rfl

@[simp] theorem shiftRows_invShiftRows (s : Columns) : shiftRows (invShiftRows s) = s := rfl

theorem Column.xor_xor_cancel_right (x y : Column) : Column.xor (Column.xor x y) y = x := by
  simp only [Column.xor, BitVec.xor_assoc, BitVec.xor_self, BitVec.xor_zero]

@[simp] theorem addRoundKey_addRoundKey (k s : Columns) : addRoundKey k (addRoundKey k s) = s := by
  simp only [addRoundKey, Column.xor_xor_cancel_right]

@[simp] theorem ofBlock_toBlock (s : Columns) : Columns.ofBlock (Columns.toBlock s) = s := rfl

@[simp] theorem toBlock_ofBlock (b : Block) : Columns.toBlock (Columns.ofBlock b) = b := by
  apply Vector.ext
  intro i hi
  interval_cases i <;> rfl

/-! ### The rounds -/

/-- The inverse rounds and the middle rounds of the cipher undo each other across the SubBytes and ShiftRows of the final round. -/
theorem aesInvRounds_aesRounds (k : Key) (n : Nat) (s : Columns) :
    aesInvRounds k n (shiftRows (subBytes (aesRounds k n s))) = shiftRows (subBytes s) := by
  induction n with
  | zero => rfl
  | succ n ih => simp [aesRounds, aesInvRounds, ih]

/-- The other way round, across the InvShiftRows and InvSubBytes of the inverse cipher's end. -/
theorem aesRounds_aesInvRounds (k : Key) (n : Nat) (s : Columns) :
    aesRounds k n (invSubBytes (invShiftRows (aesInvRounds k n s))) = invSubBytes (invShiftRows s) := by
  induction n generalizing s with
  | zero => rfl
  | succ n ih => simp [aesRounds, aesInvRounds, ih]

theorem aesInvCipher_aesCipher (k : Key) (b : Block) : aesInvCipher k (aesCipher k b) = b := by
  simp [aesCipher, aesInvCipher, aesInvRounds_aesRounds]

theorem aesCipher_aesInvCipher (k : Key) (b : Block) : aesCipher k (aesInvCipher k b) = b := by
  simp [aesCipher, aesInvCipher, aesRounds_aesInvRounds]

theorem cipherD_cipherE (c : Config.CipherChoice) (k : Key) (b : Block) : cipherD c k (cipherE c k b) = b := by
  cases c with
  | anyCipher => exact Equiv.symm_apply_apply _ b
  | aes128 => exact aesInvCipher_aesCipher k b

theorem cipherE_cipherD (c : Config.CipherChoice) (k : Key) (b : Block) : cipherE c k (cipherD c k b) = b := by
  cases c with
  | anyCipher => exact Equiv.apply_symm_apply _ b
  | aes128 => exact aesCipher_aesInvCipher k b

/-- Settles O30: a permutation and its inverse, and the rounds taken back one by one. -/
theorem cipherInverseLaws : Obligations.CipherInverseLaws :=
  fun c k b => ⟨cipherD_cipherE c k b, cipherE_cipherD c k b⟩

/-! ### Padding -/

/-- Settles O32: the pad's length is the distance to the next multiple of 16. -/
theorem paddingRule : Obligations.PaddingRule := by
  intro p
  have hlen := pad_length p
  exact ⟨hlen, by omega, 16 - p.length % 16, by omega, by omega, rfl, rfl⟩

/-- `q` is `r` and then a valid padding: `k` bytes of value `k`, `1 <= k <= 16` (42_cipher.md R163). -/
def PaddedBy (q r : List Byte) : Prop := ∃ k, 1 ≤ k ∧ k ≤ 16 ∧ q = r ++ List.replicate k (BitVec.ofNat 8 k)

theorem paddedBy_pad (p : List Byte) : PaddedBy (pad p) p := ⟨16 - p.length % 16, by omega, by omega, rfl⟩

theorem PaddedBy.length_bounds {q r : List Byte} (h : PaddedBy q r) : q.length - 16 ≤ r.length ∧ r.length ≤ q.length - 1 := by
  obtain ⟨k, hpos, hle, rfl⟩ := h
  rw [List.length_append, List.length_replicate]
  omega

/-- The last byte of a padded string is the number of its padding bytes. -/
theorem getD_last_append_replicate (r : List Byte) {k : Nat} (v : Byte) (hpos : 1 ≤ k) :
    (r ++ List.replicate k v).getD ((r ++ List.replicate k v).length - 1) 0 = v := by
  rw [List.length_append, List.length_replicate, List.getD_append_right _ _ _ _ (by omega), List.getD_replicate _ (by omega)]

theorem unpad_of_paddedBy {q r : List Byte} (h : PaddedBy q r) : unpad q = some r := by
  obtain ⟨k, hpos, hle, rfl⟩ := h
  have hlast : (BitVec.ofNat 8 k).toNat = k := by rw [BitVec.toNat_ofNat]; omega
  simp only [unpad, getD_last_append_replicate r _ hpos, hlast]
  rw [if_neg (by omega), List.length_append, List.length_replicate, Nat.add_sub_cancel, List.drop_left, List.take_left,
    if_pos (by simp)]

theorem paddedBy_of_unpad {q r : List Byte} (hlen : 16 ≤ q.length) (h : unpad q = some r) : PaddedBy q r := by
  simp only [unpad] at h
  generalize q.getD (q.length - 1) 0 = last at h
  split_ifs at h with hrange hall
  injection h with hr
  refine ⟨last.toNat, by omega, by omega, ?_⟩
  have hpad : q.drop (q.length - last.toNat) = List.replicate last.toNat last := by
    refine List.eq_replicate_iff.2 ⟨by rw [List.length_drop]; omega, fun b hb => ?_⟩
    exact beq_iff_eq.1 (List.all_eq_true.1 hall b hb)
  rw [BitVec.ofNat_toNat, BitVec.setWidth_eq, ← hpad, ← hr, List.take_append_drop]

theorem unpad_eq_some_iff {q r : List Byte} (hlen : 16 ≤ q.length) : unpad q = some r ↔ PaddedBy q r :=
  ⟨paddedBy_of_unpad hlen, unpad_of_paddedBy⟩

/-- Settles O33: a string of whole blocks is long enough to hold the padding that its last byte announces. -/
theorem unpaddingIsExact : Obligations.UnpaddingIsExact := by
  intro q hne hmod r
  have hpos := List.length_pos_of_ne_nil hne
  exact unpad_eq_some_iff (by omega)

/-! ### ECB -/

theorem ecbBlocks_block {f : Block → Block} {n : Nat} {bs : List Byte} {j : Nat} (hj : j < n) :
    ((ecbBlocks f n bs).drop (16 * j)).take 16 = (f (toBlock ((bs.drop (16 * j)).take 16))).toList := by
  induction n generalizing bs j with
  | zero => exact absurd hj (Nat.not_lt_zero _)
  | succ n ih =>
    have hlen : (f (toBlock (bs.take 16))).toList.length = 16 := Vector.length_toList
    cases j with
    | zero => rw [ecbBlocks, Nat.mul_zero, List.drop_zero, List.drop_zero, List.take_left' hlen]
    | succ j =>
      rw [ecbBlocks, show 16 * (j + 1) = 16 + 16 * j by omega, ← List.drop_drop, List.drop_left' hlen,
        ih (Nat.lt_of_succ_lt_succ hj), List.drop_drop]

theorem ecbEnc_length {c : Config.CipherChoice} {k : Key} {p : List Byte} (h : p.length % 16 = 0) :
    (ecbEnc c k p).length = p.length := by
  rw [ecbEnc, ecbBlocks_length, Nat.mul_div_cancel' (Nat.dvd_of_mod_eq_zero h)]

theorem ecbDec_length {c : Config.CipherChoice} {k : Key} {p : List Byte} (h : p.length % 16 = 0) :
    (ecbDec c k p).length = p.length := by
  rw [ecbDec, ecbBlocks_length, Nat.mul_div_cancel' (Nat.dvd_of_mod_eq_zero h)]

/-- Settles O34: both directions are `ecbBlocks`. -/
theorem ecbWorksBlockByBlock : Obligations.EcbWorksBlockByBlock :=
  fun _ _ _ h => ⟨ecbEnc_length h, ecbDec_length h, fun _ hj => ⟨ecbBlocks_block hj, ecbBlocks_block hj⟩⟩

theorem ecbDec_ecbEnc {c : Config.CipherChoice} {k : Key} {p : List Byte} (h : p.length % 16 = 0) :
    ecbDec c k (ecbEnc c k p) = p := by
  rw [ecbDec, ecbEnc_length h]
  exact ecbBlocks_inverse (cipherD_cipherE c k) _ _ (Nat.mul_div_cancel' (Nat.dvd_of_mod_eq_zero h)).symm

/-! ### Encryption and decryption of strings -/

/-- What `decrypt` gives, from the outside (42_cipher.md R166). -/
theorem decryptBytes_eq_some_iff {c : Config.CipherChoice} {k : Key} {q r : List Byte} :
    decryptBytes c k q = some r ↔ q.length ≠ 0 ∧ q.length % 16 = 0 ∧ PaddedBy (ecbDec c k q) r := by
  by_cases h : q.length = 0 ∨ q.length % 16 ≠ 0
  · rw [decryptBytes, if_pos h]
    constructor
    · nofun
    · rintro ⟨hpos, hmod, -⟩
      exact absurd hmod (h.resolve_left hpos)
  · obtain ⟨hpos, hmod⟩ : q.length ≠ 0 ∧ q.length % 16 = 0 := by omega
    rw [decryptBytes, if_neg h, unpad_eq_some_iff (by rw [ecbDec_length hmod]; omega)]
    simp only [hpos, hmod, ne_eq, not_false_eq_true, true_and]

theorem decryptBytes_encryptBytes (c : Config.CipherChoice) (k : Key) (p : List Byte) :
    decryptBytes c k (encryptBytes c k p) = some p := by
  have hlen := encryptBytes_length c k p
  refine decryptBytes_eq_some_iff.2 ⟨by omega, by omega, ?_⟩
  rw [encryptBytes, ecbDec_ecbEnc (by rw [pad_length]; exact Nat.mul_mod_right ..)]
  exact paddedBy_pad p

theorem decryptBytes_length_bounds {c : Config.CipherChoice} {k : Key} {q r : List Byte} (h : decryptBytes c k q = some r) :
    q.length - 16 ≤ r.length ∧ r.length ≤ q.length - 1 := by
  obtain ⟨-, hmod, hpad⟩ := decryptBytes_eq_some_iff.1 h
  rw [← ecbDec_length hmod (c := c) (k := k)]
  exact hpad.length_bounds

/-- Settles O35: D undoes E on each block, and the padding that `pad` adds is valid. -/
theorem decryptUndoesEncrypt : Obligations.DecryptUndoesEncrypt := fun c k =>
  ⟨fun p => ⟨rfl, decryptBytes_encryptBytes c k p, encryptBytes_length c k p⟩, fun _ _ => decryptBytes_length_bounds⟩

theorem decryptBytes_eq_none_iff {c : Config.CipherChoice} {k : Key} {q : List Byte} :
    decryptBytes c k q = none ↔ q.length = 0 ∨ q.length % 16 ≠ 0 ∨ ¬ ∃ r, PaddedBy (ecbDec c k q) r := by
  simp only [Option.eq_none_iff_forall_ne_some, ne_eq, decryptBytes_eq_some_iff, not_and_or, not_not, forall_or_left, not_exists]

/-- Settles O36: to fail is to give no `r`. -/
theorem decryptFailsExactlyOnBadLengthOrPadding : Obligations.DecryptFailsExactlyOnBadLengthOrPadding :=
  fun _ _ _ => ⟨decryptBytes_eq_none_iff, fun _ => decryptBytes_eq_some_iff⟩

/-! ### How the commands end -/

/-- A command that writes `bs` to OUT and then completes with OK ends with that output. -/
theorem endsWithOutput_writeOut (bs : List Byte) (s : State) : EndsWithOutput s (complete .ok (writeOut bs s)) bs :=
  ⟨rfl, Memory.read_writeBytes bs s.mem outBase⟩

theorem finish_writeOut (bs : List Byte) (s : State) :
    ∃ t, finish .ok (writeOut bs s) = .next t ∧ EndsWithOutput s t bs := ⟨_, rfl, endsWithOutput_writeOut bs s⟩

theorem EndsWithOutput.outLen_toNat {s t : State} {bs : List Byte} (h : EndsWithOutput s t bs) (hlen : bs.length ≤ bufSize) :
    t.outLen.toNat = bs.length := by
  obtain ⟨ht, -⟩ := h
  rw [ht]
  exact Nat.mod_eq_of_lt (Nat.lt_of_le_of_lt hlen (by decide))

/-! ### The block commands -/

/-- BLOCK_ENC and BLOCK_DEC (42_cipher.md R170, R171), with `b` the block that the cipher gives. -/
def blockCommand (s : State) (b : Block) : Out :=
  withKey s (if s.inLen.toNat ≠ 16 then finish .lengthError s else finish .ok (writeOut b.toList s))

theorem exec_blockEnc (s : State) : exec .blockEnc s = blockCommand s (cipherE s.cfg.cipher (keyOf s) (inBlock s)) := rfl

theorem exec_blockDec (s : State) : exec .blockDec s = blockCommand s (cipherD s.cfg.cipher (keyOf s) (inBlock s)) := rfl

theorem blockCommand_outcomes (s : State) (b : Block) :
    (s.keyValid = false → blockCommand s b = .next (ended 0x06 s))
      ∧ (s.keyValid = true → s.inLen ≠ 16 → blockCommand s b = .next (ended 0x08 s))
      ∧ (s.keyValid = true → s.inLen = 16 → ∃ t, blockCommand s b = .next t ∧ EndsWithOutput s t b.toList) := by
  have hiff : s.inLen = 16 ↔ s.inLen.toNat = 16 := BitVec.toNat_inj.symm
  refine ⟨fun hk => withKey_missing hk _, fun hk hne => ?_, fun hk heq => ?_⟩
  · rw [blockCommand, withKey_valid hk, if_pos (mt hiff.2 hne)]
    rfl
  · rw [blockCommand, withKey_valid hk, if_neg (not_not.2 (hiff.1 heq))]
    exact finish_writeOut _ s

/-- Settles O38: the block command with E. -/
theorem blockEncCommand : Obligations.BlockEncCommand := by
  refine ⟨rfl, fun s => ?_⟩
  rw [exec_blockEnc]
  exact blockCommand_outcomes s _

/-- Settles O39: the block command with D. -/
theorem blockDecCommand : Obligations.BlockDecCommand := by
  refine ⟨rfl, fun s => ?_⟩
  rw [exec_blockDec]
  exact blockCommand_outcomes s _

/-! ### ENCRYPT and DECRYPT -/

theorem execEncrypt_tooLong {s : State} (hk : s.keyValid = true) (hl : 128 ≤ s.inLen.toNat) :
    execEncrypt s = .next (complete .lengthError s) := by
  rw [execEncrypt, withKey_valid hk]
  by_cases h : bufSize < s.inLen.toNat
  · exact withInput_tooLong h _
  · rw [withInput_fits (Nat.not_lt.1 h), if_pos (by unfold bufSize; omega), finish_eq]

theorem execEncrypt_fits {s : State} (hk : s.keyValid = true) (hl : s.inLen.toNat < 128) :
    execEncrypt s = finish .ok (writeOut (encryptBytes s.cfg.cipher (keyOf s) (inBytes s)) s) := by
  rw [execEncrypt, withKey_valid hk, withInput_fits (Nat.le_of_lt hl), if_neg (by unfold bufSize; omega)]

/-- Settles O40: below `IN_LEN = 128` the padded output fits OUT. -/
theorem encryptCommand : Obligations.EncryptCommand := by
  refine ⟨rfl, fun s => ⟨fun hk => withKey_missing hk _, execEncrypt_tooLong, fun hk hl => ?_⟩⟩
  have hlen : (encryptBytes s.cfg.cipher (keyOf s) (inBytes s)).length = 16 * (s.inLen.toNat / 16 + 1) := by
    rw [encryptBytes_length, inBytes, memRead_length]
  obtain ⟨t, ht, hout⟩ := finish_writeOut (encryptBytes s.cfg.cipher (keyOf s) (inBytes s)) s
  exact ⟨t, (execEncrypt_fits hk hl).trans ht, hout, (hout.outLen_toNat (by rw [hlen, bufSize]; omega)).trans hlen⟩

theorem execDecrypt_fails {s : State} (hk : s.keyValid = true) (hl : s.inLen.toNat ≤ bufSize)
    (hd : decryptBytes s.cfg.cipher (keyOf s) (inBytes s) = none) : execDecrypt s = .next (complete .decryptFailure s) := by
  simp only [execDecrypt, withKey_valid hk, withInput_fits hl, hd, finish_eq]

theorem execDecrypt_succeeds {s : State} {r : List Byte} (hk : s.keyValid = true) (hl : s.inLen.toNat ≤ bufSize)
    (hd : decryptBytes s.cfg.cipher (keyOf s) (inBytes s) = some r) : execDecrypt s = finish .ok (writeOut r s) := by
  simp only [execDecrypt, withKey_valid hk, withInput_fits hl, hd]

/-- Settles O41: the plaintext is no longer than the input, which fits OUT. -/
theorem decryptCommand : Obligations.DecryptCommand := by
  refine ⟨rfl, fun s => ⟨fun hk => withKey_missing hk _, fun hk hl => ?_, fun hk hl => ⟨execDecrypt_fails hk hl, fun r hr => ?_⟩⟩⟩
  · exact (withKey_valid hk _).trans (withInput_tooLong hl _)
  · have hlen : r.length ≤ s.inLen.toNat := (decryptBytes_length_le hr).trans_eq (memRead_length ..)
    obtain ⟨t, ht, hout⟩ := finish_writeOut r s
    exact ⟨t, (execDecrypt_succeeds hk hl hr).trans ht, hout, hout.outLen_toNat (hlen.trans hl)⟩

/-! ### DERIVE_KEY -/

theorem deriveKeyBytes_getElem? (fill : Byte) (p : List Byte) {i : Nat} (hi : i < 16) :
    (deriveKeyBytes fill p)[i]? = some (p[i]?.getD fill) := by
  rw [deriveKeyBytes]
  by_cases h : i < p.length
  · rw [List.getElem?_append_left (by rw [List.length_take]; omega), List.getElem?_take_of_lt hi, List.getElem?_eq_getElem h]
    rfl
  · rw [List.getElem?_append_right (by rw [List.length_take]; omega), List.getElem?_eq_none (Nat.not_lt.1 h),
      List.getElem?_replicate, if_pos (by rw [List.length_take]; omega)]
    rfl

/-- The derived key, byte by byte (42_cipher.md R161). -/
theorem deriveKeyBytes_passBytes_getElem? (fill : Byte) (s : State) {i : Nat} (hi : i < 16) :
    (deriveKeyBytes fill (passBytes s))[i]? = some (if i < s.passLen.toNat then byteAt s (passBase + i) else fill) := by
  rw [deriveKeyBytes_getElem? fill _ hi, passBytes, memRead_getElem?]
  by_cases h : i < s.passLen.toNat
  · rw [if_pos (Nat.lt_min.2 ⟨h, hi⟩), if_pos h]
    rfl
  · rw [if_neg fun hmin => h (Nat.lt_min.1 hmin).1, if_neg h]
    rfl

/-- Settles O37: the key check alone decides, and the 16 derived bytes are what is stored at `0x030`. -/
theorem deriveKeyOnceThenLocked : Obligations.DeriveKeyOnceThenLocked := by
  refine ⟨rfl, fun s => ⟨fun hk => if_pos hk, fun hk => ⟨_, if_neg (ne_true_of_eq_false hk), rfl, fun x => ?_⟩⟩⟩
  refine (Memory.read_writeBytes _ s.mem keyBase x).trans ?_
  rw [deriveKeyBytes_length]
  exact ite_congr rfl (fun hx => deriveKeyBytes_passBytes_getElem? _ s (Nat.sub_lt_left_of_lt_add hx.1 hx.2)) fun _ => rfl

end Sys2Proof.Machine
end

section
/-! Proof of the known answers of the AES-128 reference (43_cipher_aes128_reference.md R211). Both are single runs of the cipher on written-out bytes, so the kernel's evaluation of the model is the proof. -/

namespace Sys2Proof.Machine

/-- Settles O31: the model is run on each vector, FIPS-197 Appendix C.1 and then Appendix B. -/
theorem aesKnownAnswers : Obligations.AesKnownAnswers := by
  unfold Obligations.AesKnownAnswers
  constructor
  · decide +kernel
  · decide +kernel

end Sys2Proof.Machine
end

section
/-! Proofs of the packet encoder's rules (44_encoder.md). Decimal text is described by its digits, its value and its length: `dec_u(v)` is a digit string of value `v` (`decDigits_digits`, `decimalValue_decDigits`), and no longer than any power of ten above `v` demands (`decDigits_length_le_of_lt`). That it has the value makes it parse back; that it is shortest leaves no room for a leading zero. -/

namespace Sys2Proof.Machine

/-! ### Digit strings -/

/-- Every byte is an ASCII digit (44_encoder.md R230). -/
abbrev DigitString (ds : List Byte) : Prop := ∀ b ∈ ds, 0x30 ≤ b.toNat ∧ b.toNat ≤ 0x39

/-- The decimal value of a digit string (44_encoder.md R230). -/
abbrev decimalValue (ds : List Byte) : Nat := ds.foldl (fun n b => 10 * n + (b.toNat - 0x30)) 0

theorem decimalValue_concat (ds : List Byte) (b : Byte) : decimalValue (ds ++ [b]) = 10 * decimalValue ds + (b.toNat - 0x30) :=
  List.foldl_append

theorem decimalValue_lt {ds : List Byte} (h : DigitString ds) : decimalValue ds < 10 ^ ds.length := by
  induction ds using List.reverseRecOn with
  | nil => exact Nat.one_pos
  | append_singleton ds b ih =>
    obtain ⟨hds, hb⟩ := List.forall_mem_append.1 h
    have hlast := hb b List.mem_cons_self
    have hinit := ih hds
    rw [decimalValue_concat, List.length_append, List.length_singleton, Nat.pow_succ]
    omega

theorem DigitString.not_mem {ds : List Byte} (h : DigitString ds) {b : Byte} (hb : ¬ (0x30 ≤ b.toNat ∧ b.toNat ≤ 0x39)) : b ∉ ds :=
  fun hmem => hb (h b hmem)

/-! ### The digits of a number -/

theorem decDigits_of_lt {v : Nat} (fuel : Nat) (h : v < 10) : decDigits (fuel + 1) v = [digitByte v] := if_pos h

theorem decDigits_of_ge {v : Nat} (fuel : Nat) (h : 10 ≤ v) :
    decDigits (fuel + 1) v = decDigits fuel (v / 10) ++ [digitByte (v % 10)] :=
  if_neg (Nat.not_lt.2 h)

theorem digitString_digitByte {d : Nat} (h : d < 10) : DigitString [digitByte d] := by
  obtain ⟨-, hlow, hhigh, -⟩ := digitByte_value h
  exact List.forall_mem_singleton.2 ⟨hlow, hhigh⟩

theorem digitByte_sub {d : Nat} (h : d < 10) : (digitByte d).toNat - 0x30 = d := by
  obtain ⟨-, -, -, hvalue⟩ := digitByte_value h
  exact hvalue

theorem decDigits_digits (fuel v : Nat) : DigitString (decDigits fuel v) := by
  induction fuel generalizing v with
  | zero => exact nofun
  | succ fuel ih =>
    rcases Nat.lt_or_ge v 10 with h | h
    · rw [decDigits_of_lt fuel h]
      exact digitString_digitByte h
    · rw [decDigits_of_ge fuel h]
      exact List.forall_mem_append.2 ⟨ih _, digitString_digitByte (Nat.mod_lt _ (by decide))⟩

theorem decimalValue_decDigits {fuel v : Nat} (hv : v < 10 ^ fuel) : decimalValue (decDigits fuel v) = v := by
  induction fuel generalizing v with
  | zero => exact (Nat.lt_one_iff.1 hv).symm
  | succ fuel ih =>
    rcases Nat.lt_or_ge v 10 with h | h
    · rw [decDigits_of_lt fuel h]
      exact (Nat.zero_add _).trans (digitByte_sub h)
    · have hquot : v / 10 < 10 ^ fuel := Nat.div_lt_of_lt_mul (by rwa [Nat.mul_comm, ← Nat.pow_succ])
      rw [decDigits_of_ge fuel h, decimalValue_concat, ih hquot, digitByte_sub (Nat.mod_lt _ (by decide))]
      exact Nat.div_add_mod v 10

/-- A number below `10^n` takes at most `n` digits, and zero one. -/
theorem decDigits_length_le_of_lt (fuel : Nat) {v n : Nat} (hn : 0 < n) (hv : v < 10 ^ n) : (decDigits fuel v).length ≤ n := by
  induction fuel generalizing v n with
  | zero => exact Nat.zero_le n
  | succ fuel ih =>
    rcases Nat.lt_or_ge v 10 with h | h
    · rw [decDigits_of_lt fuel h]
      exact hn
    · obtain ⟨m, rfl⟩ := Nat.exists_eq_add_one_of_ne_zero hn.ne'
      have hm : 0 < m := Nat.pos_of_ne_zero fun h0 => by subst h0; omega
      have hquot : v / 10 < 10 ^ m := Nat.div_lt_of_lt_mul (by rwa [Nat.mul_comm, ← Nat.pow_succ])
      rw [decDigits_of_ge fuel h, List.length_append]
      exact Nat.succ_le_succ (ih hm hquot)

/-! ### Decimal text -/

theorem decU_ne_nil (v : Nat) : decU v ≠ [] := by
  rcases Nat.lt_or_ge v 10 with h | h
  · rw [decU, decDigits_of_lt 9 h]
    exact List.cons_ne_nil _ _
  · rw [decU, decDigits_of_ge 9 h]
    exact List.append_ne_nil_of_right_ne_nil _ (List.cons_ne_nil _ _)

theorem decU_digits (v : Nat) : DigitString (decU v) := decDigits_digits 10 v

/-- Ten digits are enough for every 32-bit value. -/
theorem decimalValue_decU {v : Nat} (hv : v < 2 ^ 32) : decimalValue (decU v) = v :=
  decimalValue_decDigits (Nat.lt_trans hv (by decide))

theorem decU_shortest {ds : List Byte} (hne : ds ≠ []) (hds : DigitString ds) : (decU (decimalValue ds)).length ≤ ds.length :=
  decDigits_length_le_of_lt 10 (List.length_pos_of_ne_nil hne) (decimalValue_lt hds)

/-- A leading zero could be dropped, and the text is the shortest. -/
theorem decU_leadingZero {v : Nat} (hv : v < 2 ^ 32) (h : (decU v).head? = some 0x30#8) : v = 0 ∧ decU v = [0x30#8] := by
  obtain ⟨ds, hds⟩ := List.head?_eq_some_iff.1 h
  have hvalue : decimalValue ds = v := by
    rw [← decimalValue_decU hv, hds]
    rfl
  have htail : DigitString ds := fun b hb => decU_digits v b (hds ▸ List.mem_cons_of_mem _ hb)
  have hnil : ds = [] := by
    by_contra hne
    have hshort := decU_shortest hne htail
    rw [hvalue, hds, List.length_cons] at hshort
    exact Nat.not_succ_le_self _ hshort
  subst hnil
  exact ⟨hvalue.symm, hds⟩

theorem decS_nonneg {v : Int} (h : 0 ≤ v) : decS v = decU v.toNat := if_pos h

theorem decS_neg {v : Int} (h : v < 0) : decS v = minus :: decU (-v).toNat := if_neg (Int.not_le.2 h)

/-- Settles O42: `decU` is a digit string of its value, and the shortest one. -/
theorem decimalTextIsCanonical : Obligations.DecimalTextIsCanonical := by
  refine ⟨fun v hv => ⟨decU_ne_nil v, decU_digits v, decimalValue_decU hv, decU_leadingZero hv, ?_⟩,
    fun v _ _ => ⟨decS_nonneg, decS_neg⟩⟩
  rintro ds hne hds rfl
  exact decU_shortest hne hds

/-! ### Lengths -/

theorem decS_ne_nil (v : Int) : decS v ≠ [] := by
  rcases Int.lt_or_le v 0 with h | h
  · rw [decS_neg h]
    exact List.cons_ne_nil _ _
  · rw [decS_nonneg h]
    exact decU_ne_nil _

theorem serializeSample_length_ge (x : Sample) : 11 ≤ (serializeSample x).length := by
  have hid := List.length_pos_of_ne_nil (decU_ne_nil x.id.toNat)
  have h0 := List.length_pos_of_ne_nil (decS_ne_nil x.f0.toInt)
  have h1 := List.length_pos_of_ne_nil (decS_ne_nil x.f1.toInt)
  have h2 := List.length_pos_of_ne_nil (decS_ne_nil x.f2.toInt)
  have h3 := List.length_pos_of_ne_nil (decS_ne_nil x.f3.toInt)
  have h4 := List.length_pos_of_ne_nil (decS_ne_nil x.f4.toInt)
  simp only [serializeSample, List.length_append, List.length_cons]
  omega

/-- Settles O43: no number's text is empty, and the two extreme samples are run. -/
theorem serializedLengthIsBounded : Obligations.SerializedLengthIsBounded := by
  refine ⟨fun x => ⟨serializeSample_length_ge x, serializeSample_length_le x⟩, ?_, ?_⟩
  · decide
  · decide

theorem encodeFrame_length_succ (c : Config.CipherChoice) (k : Key) (x : Sample) :
    (encodeFrame c k x).length = (sampleCiphertext c k x).length + 1 :=
  List.length_append

theorem encodeFrame_length (c : Config.CipherChoice) (k : Key) (x : Sample) :
    (encodeFrame c k x).length = 16 * ((serializeSample x).length / 16 + 1) + 1 := by
  rw [encodeFrame_length_succ, sampleCiphertext, encryptBytes_length]

/-- Settles O44: the rows are the formula at the quotients 0 to 4, and no text is longer than 70 bytes. -/
theorem frameLengthBySerializedLength : Obligations.FrameLengthBySerializedLength := by
  intro c k x
  have hle := serializeSample_length_le x
  rw [encodeFrame_length]
  omega

/-! ### SERIALIZE and ENCODE -/

/-- The text of R232, with each comma a string of its own. -/
theorem serializeSample_eq (x : Sample) :
    serializeSample x = decU x.id.toNat ++ [comma] ++ decS x.f0.toInt ++ [comma] ++ decS x.f1.toInt ++ [comma] ++ decS x.f2.toInt
      ++ [comma] ++ decS x.f3.toInt ++ [comma] ++ decS x.f4.toInt := by
  simp only [serializeSample, List.append_assoc, List.cons_append, List.nil_append]

/-- Settles O45: the text fits OUT, so the command ends with it as its output. -/
theorem serializeCommand : Obligations.SerializeCommand := by
  refine ⟨rfl, fun s => ?_⟩
  have hle := serializeSample_length_le (sampleOf s)
  obtain ⟨t, ht, hout⟩ := finish_writeOut (serializeSample (sampleOf s)) s
  exact ⟨t, _, ht, serializeSample_eq _, hout, hout.outLen_toNat (hle.trans (by decide)), hle⟩

/-- Settles O46: the key check decides; with a key the frame fits OUT, and CRC takes its last byte. -/
theorem encodeCommand : Obligations.EncodeCommand := by
  refine ⟨rfl, fun s => ⟨fun hk => withKey_missing hk _, fun hk => ?_⟩⟩
  have hlen := encodeFrame_length_succ s.cfg.cipher (keyOf s) (sampleOf s)
  have hout := endsWithOutput_writeOut (encodeFrame s.cfg.cipher (keyOf s) (sampleOf s)) s
  have houtLen := hout.outLen_toNat (encodeFrame_length_le ..)
  obtain ⟨-, hstored⟩ := hout
  refine ⟨_, _, withKey_valid hk _, rfl, ?_, hstored, houtLen.trans hlen⟩
  rw [← sampleCiphertext, ← hlen]
  rfl

/-! ### Parsing back -/

theorem digitsValue_of_digits {ds : List Byte} (hne : ds ≠ []) (h : DigitString ds) : digitsValue ds = some (decimalValue ds) := by
  cases ds with
  | nil => exact absurd rfl hne
  | cons b ds => exact (digitsFrom_eq _ _).trans (if_pos h)

/-- Digits without a sign: the first byte is neither a plus nor a minus. -/
theorem literalValue_of_digits {ds : List Byte} (hne : ds ≠ []) (h : DigitString ds) :
    literalValue ds = some (decimalValue ds : Int) := by
  cases ds with
  | nil => exact absurd rfl hne
  | cons b ds =>
    have hplus : plus ∉ b :: ds := h.not_mem (by decide)
    have hminus : minus ∉ b :: ds := h.not_mem (by decide)
    rw [literalValue, if_neg (List.ne_of_not_mem_cons hplus).symm, if_neg (List.ne_of_not_mem_cons hminus).symm,
      digitsValue_of_digits hne h, Option.map_some]

theorem literalValue_minus {ds : List Byte} (hne : ds ≠ []) (h : DigitString ds) :
    literalValue (minus :: ds) = some (-(decimalValue ds : Int)) := by
  rw [literalValue, if_neg (by decide), if_pos rfl, digitsValue_of_digits hne h, Option.map_some]

theorem literalValue_decU {v : Nat} (hv : v < 2 ^ 32) : literalValue (decU v) = some (v : Int) := by
  rw [literalValue_of_digits (decU_ne_nil v) (decU_digits v), decimalValue_decU hv]

theorem literalValue_decS {v : Int} (hlo : -2 ^ 31 ≤ v) (hhi : v ≤ 2 ^ 31 - 1) : literalValue (decS v) = some v := by
  rcases Int.lt_or_le v 0 with h | h
  · rw [decS_neg h, literalValue_minus (decU_ne_nil _) (decU_digits _), decimalValue_decU (by omega)]
    congr 1
    omega
  · rw [decS_nonneg h, literalValue_decU (by omega), Int.toNat_of_nonneg h]

theorem convertId_decU (w : Word32) : convertId (decU w.toNat) = some w := by
  have hlt := w.isLt
  refine convertIn_eq_some.2 ⟨w.toNat, literalValue_decU hlt, by omega, by omega, ?_⟩
  rw [BitVec.ofInt_natCast, BitVec.ofNat_toNat, BitVec.setWidth_eq]

theorem convertField_decS (w : Word32) : convertField (decS w.toInt) = some w := by
  have hlo := w.le_toInt
  have hhi := w.toInt_le
  exact convertIn_eq_some.2 ⟨w.toInt, literalValue_decS hlo hhi, hlo, hhi, BitVec.ofInt_toInt⟩

theorem comma_not_mem_decU (v : Nat) : comma ∉ decU v := (decU_digits v).not_mem (by decide)

theorem comma_not_mem_decS (v : Int) : comma ∉ decS v := by
  rcases Int.lt_or_le v 0 with h | h
  · rw [decS_neg h]
    exact List.not_mem_cons_of_ne_of_not_mem (by decide) (comma_not_mem_decU _)
  · rw [decS_nonneg h]
    exact comma_not_mem_decU _

theorem splitBytes_serializeSample (x : Sample) :
    splitBytes comma (serializeSample x)
      = [decU x.id.toNat, decS x.f0.toInt, decS x.f1.toInt, decS x.f2.toInt, decS x.f3.toInt, decS x.f4.toInt] := by
  simp only [serializeSample, List.append_assoc, List.cons_append, splitBytes_append _ (comma_not_mem_decU _),
    splitBytes_append _ (comma_not_mem_decS _), splitBytes_single (comma_not_mem_decS _)]

/-- Settles O50: the commas split the text into the six numbers, and each converts back. -/
theorem serializedSampleParsesBack : Obligations.SerializedSampleParsesBack := by
  intro x
  simp only [parsePayload, splitBytes_serializeSample, convertTokens, convertId_decU, convertField_decS]
  exact if_neg (not_not.2 rfl)

end Sys2Proof.Machine
end

section
/-! Proofs of the packet decoder's rules (45_decoder.md). A literal is a sign and a digit string (`literalValue_eq_some_iff`), and the tokens are the one way to cut a string at its delimiters (`splitBytes_eq_iff`); both describe what the Parse and Convert stages accept. What DECODE makes of a frame is a function of the cipher, the key and the frame alone (`frameVerdict`), and its end is that verdict applied to the state (`decodeEnd`). -/

namespace Sys2Proof.Machine

/-! ### Integer literals -/

theorem digitsValue_eq_some_iff {ds : List Byte} {n : Nat} :
    digitsValue ds = some n ↔ ds ≠ [] ∧ DigitString ds ∧ n = decimalValue ds := by
  cases ds with
  | nil => simp [digitsValue]
  | cons b ds =>
    by_cases h : DigitString (b :: ds)
    · rw [digitsValue_of_digits (List.cons_ne_nil b ds) h, Option.some_inj, eq_comm]
      exact ⟨fun hn => ⟨List.cons_ne_nil b ds, h, hn⟩, fun ⟨_, _, hn⟩ => hn⟩
    · have hnone : digitsValue (b :: ds) = none := (digitsFrom_eq _ _).trans (if_neg h)
      rw [hnone]
      exact ⟨nofun, fun ⟨_, hds, _⟩ => absurd hds h⟩

theorem literalValue_plus {ds : List Byte} (hne : ds ≠ []) (h : DigitString ds) :
    literalValue (plus :: ds) = some (decimalValue ds : Int) := by
  rw [literalValue, if_pos rfl, digitsValue_of_digits hne h, Option.map_some]

/-- A literal is digits, or a sign and digits (45_decoder.md R265). -/
theorem literalValue_eq_some_iff {t : List Byte} {v : Int} :
    literalValue t = some v ↔ ∃ ds : List Byte, ds ≠ [] ∧ DigitString ds
      ∧ ((t = ds ∧ v = decimalValue ds) ∨ (t = plus :: ds ∧ v = decimalValue ds) ∨ (t = minus :: ds ∧ v = -(decimalValue ds : Int))) := by
  constructor
  · intro h
    cases t with
    | nil => cases h
    | cons b ds =>
      rw [literalValue] at h
      split_ifs at h with hplus hminus <;> obtain ⟨n, hn, rfl⟩ := Option.map_eq_some_iff.1 h <;>
        obtain ⟨hne, hds, rfl⟩ := digitsValue_eq_some_iff.1 hn
      · exact ⟨ds, hne, hds, .inr (.inl ⟨by rw [hplus], rfl⟩)⟩
      · exact ⟨ds, hne, hds, .inr (.inr ⟨by rw [hminus], rfl⟩)⟩
      · exact ⟨b :: ds, hne, hds, .inl ⟨rfl, rfl⟩⟩
  · rintro ⟨ds, hne, hds, ⟨rfl, rfl⟩ | ⟨rfl, rfl⟩ | ⟨rfl, rfl⟩⟩
    · exact literalValue_of_digits hne hds
    · exact literalValue_plus hne hds
    · exact literalValue_minus hne hds

/-- Settles O47: the grammar, with the decimal value given a name of its own. -/
theorem integerLiteralGrammar : Obligations.IntegerLiteralGrammar := by
  intro t v
  rw [literalValue_eq_some_iff]
  simp only [exists_eq_left]
  rfl

theorem comma_not_mem_of_literalValue {t : List Byte} {v : Int} (h : literalValue t = some v) : comma ∉ t := by
  obtain ⟨ds, -, hds, ⟨rfl, -⟩ | ⟨rfl, -⟩ | ⟨rfl, -⟩⟩ := literalValue_eq_some_iff.1 h
  · exact hds.not_mem (by decide)
  · exact List.not_mem_cons_of_ne_of_not_mem (by decide) (hds.not_mem (by decide))
  · exact List.not_mem_cons_of_ne_of_not_mem (by decide) (hds.not_mem (by decide))

/-! ### Splitting -/

theorem splitBytes_cons_self (d : Byte) (bs : List Byte) : splitBytes d (d :: bs) = [] :: splitBytes d bs := if_pos rfl

/-- A byte other than the delimiter joins the first token. -/
theorem splitBytes_cons_of_ne {d b : Byte} (h : b ≠ d) (bs : List Byte) :
    ∃ t ts, splitBytes d bs = t :: ts ∧ splitBytes d (b :: bs) = (b :: t) :: ts := by
  obtain ⟨t, ts, hsplit⟩ := List.exists_cons_of_ne_nil (splitBytes_ne_nil d bs)
  exact ⟨t, ts, hsplit, by rw [splitBytes, if_neg h, hsplit]⟩

theorem splitBytes_length (d : Byte) (bs : List Byte) : (splitBytes d bs).length = bs.count d + 1 := by
  induction bs with
  | nil => rfl
  | cons b bs ih =>
    by_cases h : b = d
    · subst h
      rw [splitBytes_cons_self, List.length_cons, ih, List.count_cons_self]
    · obtain ⟨t, ts, hsplit, hcons⟩ := splitBytes_cons_of_ne h bs
      rw [hcons, List.count_cons_of_ne h, ← ih, hsplit]
      rfl

theorem not_mem_of_mem_splitBytes {d : Byte} {t bs : List Byte} (ht : t ∈ splitBytes d bs) : d ∉ t := by
  induction bs generalizing t with
  | nil =>
    cases List.mem_singleton.1 ht
    exact List.not_mem_nil
  | cons b bs ih =>
    by_cases h : b = d
    · subst h
      rw [splitBytes_cons_self] at ht
      rcases List.mem_cons.1 ht with rfl | ht
      · exact List.not_mem_nil
      · exact ih ht
    · obtain ⟨t₀, ts, hsplit, hcons⟩ := splitBytes_cons_of_ne h bs
      rw [hcons] at ht
      rw [hsplit] at ih
      rcases List.mem_cons.1 ht with rfl | ht
      · exact List.not_mem_cons_of_ne_of_not_mem (Ne.symm h) (ih List.mem_cons_self)
      · exact ih (List.mem_cons_of_mem _ ht)

theorem intercalate_splitBytes (d : Byte) (bs : List Byte) : [d].intercalate (splitBytes d bs) = bs := by
  induction bs with
  | nil => rfl
  | cons b bs ih =>
    by_cases h : b = d
    · subst h
      rw [splitBytes_cons_self, List.intercalate_cons_of_ne_nil (splitBytes_ne_nil b bs), ih]
      rfl
    · obtain ⟨t, ts, hsplit, hcons⟩ := splitBytes_cons_of_ne h bs
      rw [hsplit] at ih
      rw [hcons, ← ih]
      cases ts with
      | nil => simp
      | cons t' ts => simp [List.intercalate_cons_of_ne_nil]

/-- The tokens are the only strings without the delimiter that joined by it give the string (00_scope.md R11). -/
theorem splitBytes_eq_iff {d : Byte} {bs : List Byte} {ts : List (List Byte)} :
    splitBytes d bs = ts ↔ ts ≠ [] ∧ (∀ t ∈ ts, d ∉ t) ∧ [d].intercalate ts = bs := by
  constructor
  · rintro rfl
    exact ⟨splitBytes_ne_nil d bs, fun _ => not_mem_of_mem_splitBytes, intercalate_splitBytes d bs⟩
  · rintro ⟨hne, hts, rfl⟩
    induction ts with
    | nil => exact absurd rfl hne
    | cons t ts ih =>
      obtain ⟨ht, hts⟩ := List.forall_mem_cons.1 hts
      rcases eq_or_ne ts [] with rfl | hne
      · simpa using splitBytes_single ht
      · rw [List.intercalate_cons_of_ne_nil hne, List.append_assoc]
        exact (splitBytes_append _ ht).trans (congrArg _ (ih hne hts))

/-! ### The Parse stage -/

theorem parsePayload_of_count_ne {p : List Byte} (h : p.count comma ≠ 5) : parsePayload p = .error .formatError := by
  refine if_pos ?_
  rw [splitBytes_length, tokenCount]
  omega

theorem parsePayload_of_count_eq {p : List Byte} (h : p.count comma = 5) :
    parsePayload p = (convertTokens (splitBytes comma p)).elim (.error .valueError) .ok := by
  have hlen : (splitBytes comma p).length = tokenCount := by rw [splitBytes_length, h, tokenCount]
  simp only [parsePayload, if_neg (not_not.2 hlen)]
  cases convertTokens (splitBytes comma p) <;> rfl

theorem parsePayload_eq_formatError_iff {p : List Byte} : parsePayload p = .error .formatError ↔ p.count comma ≠ 5 := by
  refine ⟨fun h hcount => ?_, parsePayload_of_count_ne⟩
  rw [parsePayload_of_count_eq hcount] at h
  cases hx : convertTokens (splitBytes comma p) <;> rw [hx] at h <;> cases h

/-- Six tokens that do not convert give ValueError (45_decoder.md R266). -/
theorem parsePayload_eq_valueError {p : List Byte} (hcount : p.count comma = 5) (h : ∀ x, parsePayload p ≠ .ok x) :
    parsePayload p = .error .valueError := by
  cases hp : parsePayload p with
  | ok x => exact absurd hp (h x)
  | error e =>
    rcases parsePayload_error hp with rfl | rfl
    · exact absurd hcount (parsePayload_eq_formatError_iff.1 hp)
    · rfl

/-- Settles O48: splitting by induction on the string, and six tokens are five commas. -/
theorem parseStageCountsTokens : Obligations.ParseStageCountsTokens :=
  ⟨fun d bs => ⟨splitBytes_length d bs, fun _ => not_mem_of_mem_splitBytes, intercalate_splitBytes d bs⟩,
    fun _ => parsePayload_eq_formatError_iff⟩

/-! ### The Convert stage -/

theorem convertId_eq_some_iff {t : List Byte} {w : Word32} : convertId t = some w ↔ literalValue t = some (w.toNat : Int) := by
  refine convertIn_eq_some.trans ⟨?_, fun h => ⟨w.toNat, h, by omega, by omega, ?_⟩⟩
  · rintro ⟨v, hv, hlo, hhi, rfl⟩
    rw [hv, BitVec.toNat_ofInt]
    congr 1
    omega
  · rw [BitVec.ofInt_natCast, BitVec.ofNat_toNat, BitVec.setWidth_eq]

theorem convertField_eq_some_iff {t : List Byte} {w : Word32} : convertField t = some w ↔ literalValue t = some w.toInt := by
  refine convertIn_eq_some.trans ⟨?_, fun h => ⟨w.toInt, h, w.le_toInt, w.toInt_le, BitVec.ofInt_toInt⟩⟩
  rintro ⟨v, hv, hlo, hhi, rfl⟩
  rw [hv, BitVec.toInt_ofInt_eq_self (by decide) hlo (by omega)]

theorem convertTokens_eq_some_iff {ts : List (List Byte)} {x : Sample} :
    convertTokens ts = some x ↔ ∃ t0 t1 t2 t3 t4 t5, ts = [t0, t1, t2, t3, t4, t5]
      ∧ convertId t0 = some x.id ∧ convertField t1 = some x.f0 ∧ convertField t2 = some x.f1
      ∧ convertField t3 = some x.f2 ∧ convertField t4 = some x.f3 ∧ convertField t5 = some x.f4 := by
  constructor
  · intro h
    unfold convertTokens at h
    split at h
    · next t0 t1 t2 t3 t4 t5 =>
      split at h
      · next h0 h1 h2 h3 h4 h5 =>
        cases h
        exact ⟨t0, t1, t2, t3, t4, t5, rfl, h0, h1, h2, h3, h4, h5⟩
      · cases h
    · cases h
  · rintro ⟨t0, t1, t2, t3, t4, t5, rfl, h0, h1, h2, h3, h4, h5⟩
    simp only [convertTokens, h0, h1, h2, h3, h4, h5]

/-- Six tokens without a comma are what is split from their joined text. -/
theorem splitBytes_eq_six_iff {p t0 t1 t2 t3 t4 t5 : List Byte} :
    splitBytes comma p = [t0, t1, t2, t3, t4, t5] ↔ (∀ t ∈ [t0, t1, t2, t3, t4, t5], comma ∉ t)
      ∧ p = t0 ++ [comma] ++ t1 ++ [comma] ++ t2 ++ [comma] ++ t3 ++ [comma] ++ t4 ++ [comma] ++ t5 := by
  rw [splitBytes_eq_iff, eq_comm (a := p)]
  simp [List.intercalate_cons_of_ne_nil]

theorem parsePayload_eq_ok_iff {p : List Byte} {x : Sample} :
    parsePayload p = .ok x ↔ convertTokens (splitBytes comma p) = some x := by
  by_cases hcount : p.count comma = 5
  · rw [parsePayload_of_count_eq hcount]
    cases convertTokens (splitBytes comma p) <;> simp
  · rw [parsePayload_of_count_ne hcount]
    refine ⟨nofun, fun h => ?_⟩
    obtain ⟨t0, t1, t2, t3, t4, t5, hsplit, -⟩ := convertTokens_eq_some_iff.1 h
    have hlen := splitBytes_length comma p
    rw [hsplit] at hlen
    exact absurd (Nat.succ.inj hlen).symm hcount

/-- Settles O49: the tokens of an accepted payload are the six literals, which hold no comma. -/
theorem payloadAcceptedExactlyWhenItConverts : Obligations.PayloadAcceptedExactlyWhenItConverts := by
  refine ⟨fun p x => ?_, fun p => parsePayload_eq_valueError⟩
  simp only [parsePayload_eq_ok_iff, convertTokens_eq_some_iff, splitBytes_eq_six_iff, convertId_eq_some_iff,
    convertField_eq_some_iff]
  constructor
  · rintro ⟨t0, t1, t2, t3, t4, t5, ⟨-, hp⟩, hlit⟩
    exact ⟨t0, t1, t2, t3, t4, t5, hp, hlit⟩
  · rintro ⟨t0, t1, t2, t3, t4, t5, hp, h0, h1, h2, h3, h4, h5⟩
    refine ⟨t0, t1, t2, t3, t4, t5, ⟨?_, hp⟩, h0, h1, h2, h3, h4, h5⟩
    simp only [List.forall_mem_cons, List.not_mem_nil, false_imp_iff, implies_true, and_true]
    exact ⟨comma_not_mem_of_literalValue h0, comma_not_mem_of_literalValue h1, comma_not_mem_of_literalValue h2,
      comma_not_mem_of_literalValue h3, comma_not_mem_of_literalValue h4, comma_not_mem_of_literalValue h5⟩

/-! ### PARSE -/

theorem execParse_error {s : State} {e : ResultCode} (hl : s.inLen.toNat ≤ bufSize) (h : parsePayload (inBytes s) = .error e) :
    execParse s = .next (complete e s) := by
  simp only [execParse, withInput_fits hl, h, finish_eq]

theorem execParse_ok {s : State} {x : Sample} (hl : s.inLen.toNat ≤ bufSize) (h : parsePayload (inBytes s) = .ok x) :
    execParse s = .next (complete .ok (writeSample x s)) := by
  simp only [execParse, withInput_fits hl, h, finish_eq]

/-- The sample registers after `writeSample`, and every other byte as before (45_decoder.md R267). -/
theorem storedAt_writeSample (x : Sample) (s : State) : StoredAt s.mem (writeSample x s).mem 0x010 (sampleBytes x) :=
  Memory.read_writeBytes (sampleBytes x) s.mem sampleBase

/-- Settles O51: the input is too long, or the Parse and Convert stages decide. -/
theorem parseCommand : Obligations.ParseCommand := by
  refine ⟨rfl, fun s => ⟨fun hl => withInput_tooLong hl _, fun hl => ⟨fun hcount => ?_, fun hcount h => ?_, fun x hx => ?_⟩⟩⟩
  · exact execParse_error hl (parsePayload_of_count_ne hcount)
  · exact execParse_error hl (parsePayload_eq_valueError hcount h)
  · exact ⟨_, execParse_ok hl hx, rfl, storedAt_writeSample x s⟩

/-! ### DECODE -/

/-- What Decrypt, Parse and Convert make of the ciphertext `q` (45_decoder.md R263 to R266). -/
def ciphertextVerdict (c : Config.CipherChoice) (k : Key) (q : List Byte) : Except ResultCode Sample :=
  match decryptStage c k q with
  | none => .error .decryptFailure
  | some p => parsePayload p

/-- What the pipeline makes of a frame of legal length, from Integrity on (45_decoder.md R262 to R266). -/
def frameVerdict (c : Config.CipherChoice) (k : Key) (f : List Byte) : Except ResultCode Sample :=
  if f.getLastD 0 ≠ checksum f.dropLast then .error .crcMismatch else ciphertextVerdict c k f.dropLast

/-- How DECODE ends (45_decoder.md R270): a failure clears INTEGRITY, and a sample is stored and sets it. -/
def decodeEnd (r : Except ResultCode Sample) (s : State) : State :=
  match r with
  | .error e => complete e (setIntegrity false s)
  | .ok x => complete .ok (setIntegrity true (writeSample x s))

theorem ciphertextVerdict_of_none {c : Config.CipherChoice} {k : Key} {q : List Byte} (h : decryptStage c k q = none) :
    ciphertextVerdict c k q = .error .decryptFailure := by
  rw [ciphertextVerdict, h]

theorem ciphertextVerdict_of_some {c : Config.CipherChoice} {k : Key} {q p : List Byte} (h : decryptStage c k q = some p) :
    ciphertextVerdict c k q = parsePayload p := by
  rw [ciphertextVerdict, h]

theorem frameVerdict_of_ne {c : Config.CipherChoice} {k : Key} {f : List Byte} (h : f.getLastD 0 ≠ checksum f.dropLast) :
    frameVerdict c k f = .error .crcMismatch := if_pos h

theorem frameVerdict_of_eq {c : Config.CipherChoice} {k : Key} {f : List Byte} (h : f.getLastD 0 = checksum f.dropLast) :
    frameVerdict c k f = ciphertextVerdict c k f.dropLast := if_neg (not_not.2 h)

theorem decodeCiphertext_eq (q : List Byte) (s : State) :
    decodeCiphertext q s = .next (decodeEnd (ciphertextVerdict s.cfg.cipher (keyOf s) q) s) := by
  unfold decodeCiphertext
  cases hd : decryptStage s.cfg.cipher (keyOf s) q with
  | none => rw [ciphertextVerdict_of_none hd]; rfl
  | some p =>
    rw [ciphertextVerdict_of_some hd]
    cases hp : parsePayload p <;> simp only [hp] <;> rfl

theorem getD_last_eq_getLastD (f : List Byte) : f.getD (f.length - 1) 0 = f.getLastD 0 := by
  rw [List.getLastD_eq_getLast?, List.getLast?_eq_getElem?, List.getD_eq_getElem?_getD]

/-- The Integrity stage by the last byte of the frame and the bytes before it (30_encoding.md R95). -/
theorem afterIntegrity_eq (f : List Byte) (s : State) :
    afterIntegrity f s = setRxcrc (f.getLastD 0) (setCrc (checksum f.dropLast) s) := by
  rw [afterIntegrity, getD_last_eq_getLastD, List.dropLast_eq_take]

theorem decodeFrame_eq (f : List Byte) (s : State) :
    decodeFrame f s = .next (decodeEnd (frameVerdict s.cfg.cipher (keyOf s) f) (afterIntegrity f s)) := by
  simp only [decodeFrame, frameVerdict, getD_last_eq_getLastD, ← List.dropLast_eq_take]
  rw [afterIntegrity_eq]
  split_ifs
  · rfl
  · exact decodeCiphertext_eq ..

theorem execDecode_noKey {s : State} (hk : s.keyValid = false) : execDecode s = .next (decodeEnd (.error .noKey) s) := by
  rw [execDecode, hk]
  rfl

theorem execDecode_tooLong {s : State} (hk : s.keyValid = true) (hl : bufSize < s.inLen.toNat) :
    execDecode s = .next (decodeEnd (.error .lengthError) s) := by
  rw [execDecode, hk, if_neg (by decide), if_pos hl]
  rfl

theorem execDecode_tooShort {s : State} (hk : s.keyValid = true) (hl : s.inLen.toNat < minFrame) :
    execDecode s = .next (decodeEnd (.error .shortFrame) s) := by
  rw [execDecode, hk, if_neg (by decide), if_neg (by unfold minFrame at hl; unfold bufSize; omega), if_pos hl]
  rfl

/-- The checks of the key and of the length passed: the frame's verdict decides. -/
theorem execDecode_frame {s : State} (hk : s.keyValid = true) (hmin : minFrame ≤ s.inLen.toNat) (hmax : s.inLen.toNat ≤ bufSize) :
    execDecode s
      = .next (decodeEnd (frameVerdict s.cfg.cipher (keyOf s) (inBytes s)) (afterIntegrity (inBytes s) s)) := by
  rw [execDecode, hk, if_neg (by decide), if_neg (Nat.not_lt.2 hmax), if_neg (Nat.not_lt.2 hmin), decodeFrame_eq]

/-- Settles O52: before Integrity the checks decide, and from there on the frame's verdict, stage by stage. -/
theorem decodeCommand : Obligations.DecodeCommand := by
  refine ⟨rfl, fun s => ?_⟩
  intro q rx reached
  refine ⟨execDecode_noKey, execDecode_tooLong, execDecode_tooShort, fun hk hmin hmax => ?_⟩
  have hexec {r : Except ResultCode Sample} (hr : frameVerdict s.cfg.cipher (keyOf s) (inBytes s) = r) :
      exec .decode s = .next (decodeEnd r reached) := by
    have h := execDecode_frame hk hmin hmax
    rwa [hr, afterIntegrity_eq] at h
  refine ⟨fun hne => hexec (frameVerdict_of_ne hne), fun heq => ?_⟩
  have hdecrypt {r : Except ResultCode Sample} (hr : ciphertextVerdict s.cfg.cipher (keyOf s) q = r) :=
    hexec ((frameVerdict_of_eq heq).trans hr)
  refine ⟨fun hnone => ?_, fun p hp => ⟨fun hascii => ?_, fun hascii => ?_⟩⟩
  · exact hdecrypt (ciphertextVerdict_of_none (decryptStage_eq_none.2 (.inl hnone)))
  · exact hdecrypt (ciphertextVerdict_of_none (decryptStage_eq_none.2 (.inr ⟨p, hp, hascii⟩)))
  · have hparse {r : Except ResultCode Sample} (hr : parsePayload p = r) :=
      hdecrypt ((ciphertextVerdict_of_some (decryptStage_eq_some.2 ⟨hp, hascii⟩)).trans hr)
    refine ⟨fun hcount => hparse (parsePayload_of_count_ne hcount),
      fun hcount h => hparse (parsePayload_eq_valueError hcount h), fun x hx => ⟨_, hparse hx, rfl, ?_⟩⟩
    exact storedAt_writeSample x reached

/-! ### One flipped bit -/

/-- A byte string is the rest and its last byte. -/
theorem dropLast_append_getLastD {f : List Byte} (hne : f ≠ []) : f.dropLast ++ [f.getLastD 0] = f := by
  rw [List.getLastD_eq_getLast?, List.getLast?_eq_some_getLast hne]
  exact List.dropLast_append_getLast hne

/-- The checksum of a whole intact frame is zero (41_checksum.md R143(c)). -/
theorem checksum_of_getLastD_eq {f : List Byte} (hne : f ≠ []) (h : f.getLastD 0 = checksum f.dropLast) : checksum f = 0x00 := by
  rw [← dropLast_append_getLastD hne, h, checksum_append_checksum]

/-- A change of one byte of an intact frame, checksum byte included, leaves no intact frame. -/
theorem getLastD_modify_ne {g : Byte → Byte} (hg : ∀ b, g b ≠ b) {f : List Byte} {i : Nat} (hi : i < f.length)
    (h : f.getLastD 0 = checksum f.dropLast) : (f.modify i g).getLastD 0 ≠ checksum (f.modify i g).dropLast := by
  have hne : f ≠ [] := List.ne_nil_of_length_pos (Nat.zero_lt_of_lt hi)
  have hne' : f.modify i g ≠ [] := List.ne_nil_of_length_pos (by rw [List.length_modify]; omega)
  intro h'
  exact checksum_modify_ne hg hi ((checksum_of_getLastD_eq hne' h').trans (checksum_of_getLastD_eq hne h).symm)

/-- Settles O54: the checksum detects a change of one byte, and so DECODE stops at Integrity. -/
theorem singleBitErrorIsCrcMismatch : Obligations.SingleBitErrorIsCrcMismatch := by
  intro s f i j hk hmin hmax hi hj hf hin
  have hverdict : frameVerdict s.cfg.cipher (keyOf s) (inBytes s) = .error .crcMismatch :=
    frameVerdict_of_ne (hin ▸ getLastD_modify_ne (flipBit_ne hj) hi hf)
  have hexec := execDecode_frame hk hmin hmax
  rw [hverdict] at hexec
  exact ⟨_, hexec, rfl, rfl⟩

/-! ### The round trip -/

theorem getLastD_encodeFrame (c : Config.CipherChoice) (k : Key) (x : Sample) :
    (encodeFrame c k x).getLastD 0 = checksum (sampleCiphertext c k x) := by
  rw [encodeFrame, List.getLastD_concat]

theorem dropLast_encodeFrame (c : Config.CipherChoice) (k : Key) (x : Sample) :
    (encodeFrame c k x).dropLast = sampleCiphertext c k x := List.dropLast_concat

theorem decU_ascii (v : Nat) : ∀ b ∈ decU v, b.toNat < 0x80 :=
  fun b hb => Nat.lt_of_le_of_lt (decU_digits v b hb).2 (by decide)

theorem decS_ascii (v : Int) : ∀ b ∈ decS v, b.toNat < 0x80 := by
  rcases Int.lt_or_le v 0 with h | h
  · rw [decS_neg h]
    exact List.forall_mem_cons.2 ⟨by decide, decU_ascii _⟩
  · rw [decS_nonneg h]
    exact decU_ascii _

/-- The serialized sample is made of digits, minuses and commas, which are 7-bit ASCII. -/
theorem serializeSample_ascii (x : Sample) : ∀ b ∈ serializeSample x, b.toNat < 0x80 := by
  have hcomma : ∀ b ∈ [comma], b.toNat < 0x80 := by decide
  rw [serializeSample_eq]
  simp only [List.forall_mem_append, and_assoc]
  exact ⟨decU_ascii _, hcomma, decS_ascii _, hcomma, decS_ascii _, hcomma, decS_ascii _, hcomma, decS_ascii _, hcomma, decS_ascii _⟩

theorem frameVerdict_encodeFrame (c : Config.CipherChoice) (k : Key) (x : Sample) :
    frameVerdict c k (encodeFrame c k x) = .ok x := by
  have hintact : (encodeFrame c k x).getLastD 0 = checksum (encodeFrame c k x).dropLast := by
    rw [getLastD_encodeFrame, dropLast_encodeFrame]
  have hplain : decryptStage c k (sampleCiphertext c k x) = some (serializeSample x) :=
    decryptStage_eq_some.2 ⟨decryptBytes_encryptBytes c k _, serializeSample_ascii x⟩
  rw [frameVerdict_of_eq hintact, dropLast_encodeFrame, ciphertextVerdict_of_some hplain]
  exact serializedSampleParsesBack x

/-- A read of defined bytes is the string they make. -/
theorem memRead_eq_of_read {s : State} {a : Nat} {bs : List Byte}
    (h : ∀ i (hi : i < bs.length), Memory.read s.mem (a + i) = some bs[i]) : memRead s a bs.length = bs := by
  apply List.ext_getElem?
  intro i
  rw [memRead_getElem?]
  by_cases hi : i < bs.length
  · rw [if_pos hi, byteAt_defined (h i hi), List.getElem?_eq_getElem hi]
  · rw [if_neg hi, List.getElem?_eq_none (Nat.not_lt.1 hi)]

theorem word32_le32 (w : Word32) :
    word32 (w.extractLsb' 0 8) (w.extractLsb' 8 8) (w.extractLsb' 16 8) (w.extractLsb' 24 8) = w := by
  apply BitVec.eq_of_toNat_eq
  have hlt := w.isLt
  simp only [word32_toNat, BitVec.extractLsb'_toNat, Nat.shiftRight_eq_div_pow]
  omega

/-- A register whose four bytes are those of `w` holds `w` (20_memory.md R69). -/
theorem wordAt_of_memRead {s : State} {a : Nat} {w : Word32} (h : memRead s a 4 = le32 w) : wordAt s a = w := by
  simp only [memRead, le32, List.cons.injEq, and_true] at h
  obtain ⟨h0, h1, h2, h3⟩ := h
  rw [wordAt, h0, h1, h2, h3, word32_le32]

theorem sampleOf_of_memRead {s : State} {x : Sample} (h : memRead s sampleBase 24 = sampleBytes x) : sampleOf s = x := by
  have h' : memRead s 0x010 4 ++ memRead s 0x014 4 ++ memRead s 0x018 4 ++ memRead s 0x01C 4 ++ memRead s 0x020 4
      ++ memRead s 0x024 4 = sampleBytes x := h
  obtain ⟨h', h4⟩ := List.append_inj' h' rfl
  obtain ⟨h', h3⟩ := List.append_inj' h' rfl
  obtain ⟨h', h2⟩ := List.append_inj' h' rfl
  obtain ⟨h', h1⟩ := List.append_inj' h' rfl
  obtain ⟨hid, h0⟩ := List.append_inj' h' rfl
  rw [sampleOf, wordAt_of_memRead hid, wordAt_of_memRead h0, wordAt_of_memRead h1, wordAt_of_memRead h2,
    wordAt_of_memRead h3, wordAt_of_memRead h4]

/-- The sample registers hold the sample that DECODE persists (45_decoder.md R267). -/
theorem sampleOf_decodeEnd (x : Sample) (s : State) : sampleOf (decodeEnd (.ok x) s) = x :=
  sampleOf_of_memRead (memRead_eq_of_read (bs := sampleBytes x) fun _ hi => Memory.read_writeBytes_inside hi)

theorem keyOf_congr {s u : State} (hdef : ∀ i, i < 16 → (Memory.read s.mem (0x030 + i)).isSome = true)
    (h : ∀ i, i < 16 → Memory.read u.mem (0x030 + i) = Memory.read s.mem (0x030 + i)) : keyOf u = keyOf s :=
  congrArg toBlock (memRead_congr fun i hi => ⟨hdef i hi, h i hi⟩)

/-- A codec with the key and a frame that ENCODE made in IN decodes the sample. -/
theorem execDecode_encodeFrame {s : State} {x : Sample} (hk : s.keyValid = true)
    (hin : inBytes s = encodeFrame s.cfg.cipher (keyOf s) x) :
    execDecode s = .next (decodeEnd (.ok x) (afterIntegrity (encodeFrame s.cfg.cipher (keyOf s) x) s)) := by
  have hlen : s.inLen.toNat = (encodeFrame s.cfg.cipher (keyOf s) x).length := by rw [← hin, inBytes, memRead_length]
  have hmin : minFrame ≤ s.inLen.toNat := by rw [hlen, encodeFrame_length, minFrame]; omega
  have hmax : s.inLen.toNat ≤ bufSize := hlen ▸ encodeFrame_length_le ..
  rw [execDecode_frame hk hmin hmax, hin, frameVerdict_encodeFrame]

/-- Settles O53: the frame in IN is the one ENCODE made, and its verdict is the sample. -/
theorem decodeUndoesEncode : Obligations.DecodeUndoesEncode := by
  intro s hk hkey
  have hout := endsWithOutput_writeOut (encodeFrame s.cfg.cipher (keyOf s) (sampleOf s)) s
  have houtLen := hout.outLen_toNat (encodeFrame_length_le ..)
  refine ⟨_, withKey_valid hk _, rfl, fun u hcfg huk hukey hin hbytes => ?_⟩
  have hframe : inBytes u = encodeFrame u.cfg.cipher (keyOf u) (sampleOf s) := by
    rw [hcfg, keyOf_congr hkey hukey, inBytes, hin]
    refine (congrArg _ houtLen).trans (memRead_eq_of_read fun i hi => ?_)
    exact (hbytes i (houtLen.symm ▸ hi)).trans (Memory.read_writeBytes_inside hi)
  refine ⟨_, execDecode_encodeFrame huk hframe, rfl, rfl, ?_, sampleOf_decodeEnd ..⟩
  show (afterIntegrity _ u).crc = (afterIntegrity _ u).rxcrc
  rw [afterIntegrity_eq, getLastD_encodeFrame, dropLast_encodeFrame]
  rfl

/-! ### What DECODE depends on -/

theorem code_eq_ok_iff (c : ResultCode) : c.code = 0x00 ↔ c = .ok := by cases c <;> decide

/-- The pipeline fails with a code other than OK. -/
theorem frameVerdict_ne_error_ok (c : Config.CipherChoice) (k : Key) (f : List Byte) : frameVerdict c k f ≠ .error .ok := by
  intro h
  rw [frameVerdict] at h
  split at h
  · cases h
  · rw [ciphertextVerdict] at h
    split at h
    · cases h
    · rcases parsePayload_error h with h | h <;> cases h

/-- One verdict is one result, whatever the state it ends in. -/
theorem decodeEnd_result_integrity (r : Except ResultCode Sample) (s u : State) :
    (decodeEnd r s).result = (decodeEnd r u).result ∧ (decodeEnd r s).integrity = (decodeEnd r u).integrity := by
  cases r <;> exact ⟨rfl, rfl⟩

theorem decodeEnd_crc_rxcrc (r : Except ResultCode Sample) (s : State) :
    (decodeEnd r s).crc = s.crc ∧ (decodeEnd r s).rxcrc = s.rxcrc := by
  cases r <;> exact ⟨rfl, rfl⟩

theorem read_decodeEnd_ok (x : Sample) (s : State) {a : Nat} (ha : SampleAddr a) :
    Memory.read (decodeEnd (.ok x) s).mem a = (sampleBytes x)[a - sampleBase]? :=
  (storedAt_writeSample x s a).trans (if_pos ha)

/-- Only a sample ends DECODE with OK. -/
theorem exists_ok_of_decodeEnd_result {r : Except ResultCode Sample} (hr : r ≠ .error .ok) {s : State}
    (h : (decodeEnd r s).result = 0x00) : ∃ x, r = .ok x := by
  cases r with
  | error e => exact absurd (congrArg _ ((code_eq_ok_iff e).1 h)) hr
  | ok x => exact ⟨x, rfl⟩

/-- Codecs that agree on KEY_VALID, the key and the frame end with one verdict, and on one CRC and RXCRC if they reach Integrity. -/
theorem execDecode_sameVerdict {s u : State} (hcfg : s.cfg = u.cfg) (hvalid : s.keyValid = u.keyValid) (hkey : keyOf s = keyOf u)
    (hlen : s.inLen = u.inLen) (hin : inBytes s = inBytes u) :
    ∃ r s' u', r ≠ .error .ok ∧ execDecode s = .next (decodeEnd r s') ∧ execDecode u = .next (decodeEnd r u')
      ∧ (s.keyValid = true → minFrame ≤ s.inLen.toNat → s.inLen.toNat ≤ bufSize → s'.crc = u'.crc ∧ s'.rxcrc = u'.rxcrc) := by
  cases hk : s.keyValid with
  | false => exact ⟨.error .noKey, s, u, nofun, execDecode_noKey hk, execDecode_noKey (hvalid ▸ hk), nofun⟩
  | true =>
    have hk' : u.keyValid = true := hvalid ▸ hk
    rcases Nat.lt_or_ge bufSize s.inLen.toNat with hmax | hmax
    · exact ⟨.error .lengthError, s, u, nofun, execDecode_tooLong hk hmax, execDecode_tooLong hk' (hlen ▸ hmax),
        fun _ _ h => absurd h (Nat.not_le.2 hmax)⟩
    · rcases Nat.lt_or_ge s.inLen.toNat minFrame with hmin | hmin
      · exact ⟨.error .shortFrame, s, u, nofun, execDecode_tooShort hk hmin, execDecode_tooShort hk' (hlen ▸ hmin),
          fun _ h => absurd h (Nat.not_le.2 hmin)⟩
      · have hu := execDecode_frame hk' (hlen ▸ hmin) (hlen ▸ hmax)
        rw [← hcfg, ← hkey, ← hin] at hu
        exact ⟨_, _, _, frameVerdict_ne_error_ok _ _ _, execDecode_frame hk hmin hmax, hu, fun _ _ _ => ⟨rfl, rfl⟩⟩

/-- Settles O55: the verdict decides all that is compared but CRC and RXCRC, which Integrity wrote. -/
theorem decodeDependsOnlyOnFrameAndKey : Obligations.DecodeDependsOnlyOnFrameAndKey := by
  intro s u t v hcfg hvalid hkey hlen hin hs hu
  obtain ⟨r, s', u', hr, hs', hu', hreached⟩ := execDecode_sameVerdict hcfg hvalid hkey hlen hin
  cases hs'.symm.trans hs
  cases hu'.symm.trans hu
  obtain ⟨hresult, hintegrity⟩ := decodeEnd_result_integrity r s' u'
  obtain ⟨hcrc, hrxcrc⟩ := decodeEnd_crc_rxcrc r s'
  obtain ⟨hcrc', hrxcrc'⟩ := decodeEnd_crc_rxcrc r u'
  refine ⟨hresult, hintegrity, ?_, fun h a ha => ?_⟩
  · rwa [hcrc, hrxcrc, hcrc', hrxcrc']
  · obtain ⟨x, rfl⟩ := exists_ok_of_decodeEnd_result hr h
    rw [read_decodeEnd_ok x s' ha, read_decodeEnd_ok x u' ha]

end Sys2Proof.Machine
end

section
/-! Proofs of the exception rules (60_exceptions.md). Of the commands other than DECODE, one that fails only completes (`exec_ok_or_completes`). DECODE ends with a verdict on the state it started in, or on the state after Integrity (`execDecode_next_decodeEnd`), and a verdict that fails only clears INTEGRITY and completes. -/

namespace Sys2Proof.Machine

/-- A command other than DECODE ends with OK, or only completes. -/
theorem exec_ok_or_completes {i : Instr} {s t : State} (hf : i.format = .c8) (hi : i ≠ .decode) (h : exec i s = .next t) :
    t.result = 0x00 ∨ ∃ c, t = complete c s := by
  cases i with
  | nop => cases h; exact .inl rfl
  | crc =>
    rcases execCrc_next h with ⟨_, rfl⟩ | ⟨_, rfl⟩
    · exact .inr ⟨_, rfl⟩
    · exact .inl rfl
  | deriveKey =>
    rcases execDeriveKey_next h with ⟨_, rfl⟩ | ⟨_, rfl⟩
    · exact .inr ⟨_, rfl⟩
    · exact .inl rfl
  | blockEnc =>
    rcases execBlockEnc_next h with ⟨_, rfl⟩ | ⟨_, _, rfl⟩ | ⟨_, _, rfl⟩
    · exact .inr ⟨_, rfl⟩
    · exact .inr ⟨_, rfl⟩
    · exact .inl rfl
  | blockDec =>
    rcases execBlockDec_next h with ⟨_, rfl⟩ | ⟨_, _, rfl⟩ | ⟨_, _, rfl⟩
    · exact .inr ⟨_, rfl⟩
    · exact .inr ⟨_, rfl⟩
    · exact .inl rfl
  | encrypt =>
    rcases execEncrypt_next h with ⟨_, rfl⟩ | ⟨_, _, rfl⟩ | ⟨_, _, rfl⟩
    · exact .inr ⟨_, rfl⟩
    · exact .inr ⟨_, rfl⟩
    · exact .inl rfl
  | decrypt =>
    rcases execDecrypt_next h with ⟨_, rfl⟩ | ⟨_, _, rfl⟩ | ⟨_, _, _, rfl⟩ | ⟨_, _, r, _, rfl⟩
    · exact .inr ⟨_, rfl⟩
    · exact .inr ⟨_, rfl⟩
    · exact .inr ⟨_, rfl⟩
    · exact .inl rfl
  | serialize => cases execSerialize_next h; exact .inl rfl
  | encode =>
    rcases execEncode_next h with ⟨_, rfl⟩ | ⟨_, rfl⟩
    · exact .inr ⟨_, rfl⟩
    · exact .inl rfl
  | parse =>
    rcases execParse_next h with ⟨_, rfl⟩ | ⟨_, e, _, rfl⟩ | ⟨_, x, _, rfl⟩
    · exact .inr ⟨_, rfl⟩
    · exact .inr ⟨e, rfl⟩
    · exact .inl rfl
  | decode => exact absurd rfl hi
  | illegal op => cases h; exact .inr ⟨.illegalCommand, rfl⟩
  | busWr a v => cases hf
  | busRd a => cases hf

/-- DECODE reaches Integrity: it has a key and a frame of legal length (45_decoder.md R270). -/
def ReachesIntegrity (s : State) : Prop := s.keyValid = true ∧ minFrame ≤ s.inLen.toNat ∧ s.inLen.toNat ≤ bufSize

/-- DECODE ends with a verdict on the state it started in, or on what Integrity made of it. -/
theorem execDecode_next_decodeEnd {s t : State} (h : execDecode s = .next t) :
    ∃ r, t = decodeEnd r s ∨ (ReachesIntegrity s ∧ t = decodeEnd r (afterIntegrity (inBytes s) s)) := by
  rcases execDecode_next h with ⟨_, rfl⟩ | ⟨_, _, rfl⟩ | ⟨_, _, rfl⟩ | ⟨hk, hmin, hmax, h⟩
  · exact ⟨.error .noKey, .inl rfl⟩
  · exact ⟨.error .lengthError, .inl rfl⟩
  · exact ⟨.error .shortFrame, .inl rfl⟩
  · cases (decodeFrame_eq ..).symm.trans h
    exact ⟨_, .inr ⟨⟨hk, hmin, hmax⟩, rfl⟩⟩

/-- A verdict that does not end with OK clears INTEGRITY and completes, and that is all. -/
theorem decodeEnd_of_result_ne {r : Except ResultCode Sample} {s : State} (h : (decodeEnd r s).result ≠ 0x00) :
    decodeEnd r s = { ended (decodeEnd r s).result s with integrity := false } := by
  cases r with
  | error e => rfl
  | ok x => exact absurd rfl h

/-- Settles O22: a command other than DECODE that fails only completes, and DECODE has changed CRC and RXCRC only if it reached Integrity. -/
theorem failedCommandChangesOnlyTheListedRegisters : Obligations.FailedCommandChangesOnlyTheListedRegisters := by
  intro i s t hf h hne
  by_cases hi : i = .decode
  · subst hi
    rw [if_pos rfl]
    obtain ⟨r, rfl | ⟨hreached, rfl⟩⟩ := execDecode_next_decodeEnd h
    · rw [decodeEnd_of_result_ne hne]
      exact ⟨rfl, fun _ => ⟨rfl, rfl⟩⟩
    · rw [decodeEnd_of_result_ne hne]
      exact ⟨rfl, fun hnot => absurd ⟨rfl, hreached⟩ hnot⟩
  · rw [if_neg hi]
    rcases exec_ok_or_completes hf hi h with hok | ⟨c, rfl⟩
    · exact absurd hok hne
    · exact ⟨rfl, fun _ => ⟨rfl, rfl⟩⟩

end Sys2Proof.Machine
end

section
/-! Proofs of the rules of reset and of races (70_reset_and_hazards.md). The platform's move is an equation of `step` (`step_resetMove`), and a race is two moves in either order, each by the rule of its agent: the engine's (`step_pendingNop`), and the host's with the bus write it decodes to (`step_inLenWrite`). -/

namespace Sys2Proof.Machine

/-! ### Reset -/

/-- Settles O11: each value is the one that `State.reset` writes out. -/
theorem resetValues : Obligations.ResetValues :=
  ⟨rfl, rfl, rfl, rfl, rfl, rfl, rfl, rfl, rfl, rfl, rfl, rfl, rfl, fun _ => rfl⟩

/-- Settles O56: the first instance of the invariant that `stepKeepsTheInvariant` keeps. -/
theorem resetMeetsTheInvariant : Obligations.ResetMeetsTheInvariant := inv_reset

theorem step_resetMove {s : State} {rest : List Event} (h : s.agenda = .reset :: rest) :
    step s = .next (platformReset (setAgenda rest s)) := by
  rw [step, nextMove, h]
  rfl

/-- Settles O12: the reset state has no key, and so the key check of DERIVE_KEY passes. -/
theorem platformResetAbandonsTheCommandAndUnlocksTheKey : Obligations.PlatformResetAbandonsTheCommandAndUnlocksTheKey := by
  intro s rest ha
  obtain ⟨-, hderive⟩ := deriveKeyOnceThenLocked
  obtain ⟨u, hu, hended, -⟩ := (hderive (platformReset (setAgenda rest s))).2 rfl
  refine ⟨_, u, step_resetMove ha, rfl, rfl, rfl, rfl, fun _ => rfl, hu, ?_, ?_⟩
  · rw [hended]
    rfl
  · rw [hended]

/-! ### A write that races a completion -/

theorem core_run_two {s t u : State} (hst : step s = .next t) (htu : step t = .next u) : core.run 2 s = .next u := by
  have hst' : core.step s = .next t := hst
  have htu' : core.step t = .next u := htu
  simp only [Host.Core.run, hst', htu']

/-- The engine's move while NOP is pending is its completion. -/
theorem step_pendingNop {s : State} {rest : List Event} (hb : s.busy = true) (hcmd : s.cmd = 0x00)
    (ha : s.agenda = .engine :: rest) : step s = .next (ended 0x00 { s with agenda := rest }) := by
  obtain ⟨hdecode, hnop⟩ := nopCompletesWithOk
  obtain ⟨-, hstep⟩ := engineMoveRunsTheLatchedCommand s .nop hb (hcmd ▸ hdecode)
  exact (hstep rest ha).trans (hnop _)

/-- The host's move by the word that writes IN_LEN (20_memory.md R64, R65): dropped while BUSY = 1, and taken while BUSY = 0. -/
theorem step_inLenWrite {s : State} {v : Byte} {rest : List Event} (ha : s.agenda = .host (0x40500 + v.toNat) :: rest) :
    step s = .next (if s.busy then { s with agenda := rest, errBusy := true } else { s with agenda := rest, inLen := v }) := by
  obtain ⟨hstep, -⟩ := hostMoveRunsTheDecodedTransaction s _ rest ha
  obtain ⟨-, hbusy, hidle⟩ := busWriteByAddress { s with agenda := rest } 0x005 v
  rw [hstep _ (decode_tw_write 0x005 v)]
  split
  · next hb => exact hbusy (by decide) hb
  · next hb =>
    obtain ⟨-, hinLen, -⟩ := hidle (Bool.eq_false_of_not_eq_true hb)
    exact hinLen rfl

/-- Settles O10: the two moves in either order. The write finds BUSY = 1 before the completion, and BUSY = 0 after it. -/
theorem writeRacingACompletionHasBothOutcomes : Obligations.WriteRacingACompletionHasBothOutcomes := by
  intro s v hb hcmd
  constructor
  · have hwrite := step_inLenWrite (s := { s with agenda := [.host (0x40500 + v.toNat), .engine] }) rfl
    rw [if_pos hb] at hwrite
    exact core_run_two hwrite (step_pendingNop hb hcmd rfl)
  · exact core_run_two (step_pendingNop hb hcmd rfl) (step_inLenWrite rfl)

end Sys2Proof.Machine
end
